-- ==== Sys2Proof/Word.lean ====
section
/-! DEFINITION. The words of the block (spec/00_scope.md section 7, spec/30_encoding.md R46): the 8-bit register and
operand, the 21-bit input vector, the 3-bit command code, the 1-bit register index, and the two levels of a pin. -/

namespace Sys2Proof

/-- An 8-bit unsigned value: `cnt`, `x[0]`, `x[1]` (R11), an operand `a` or `b` (R46), and a character of the host's
console (R90). -/
abbrev Byte := BitVec 8

/-- The input vector `IV = {rst, tick, op, b, a}` of one clock cycle (R46). -/
abbrev InputVector := BitVec 21

/-- The command code `op[2:0]` (R46, R49). -/
abbrev OpCode := BitVec 3

/-- An index of the configuration register space (R29: "The index is 1 bit wide"). -/
abbrev RegIndex := BitVec 1

/-- The level of a pin or of an output latch (R18, 00_scope.md section 7: high, on and 1 are the same level; low, off
and 0 are the same). -/
inductive Level
  | low
  | high
  deriving DecidableEq, Repr, Inhabited

end Sys2Proof
end

