-- ==== Sys2Proof/Config.lean ====
section
/-! DEFINITION. What is fixed for a build (the constants of spec/00_scope.md R7 and the parameters of R8), the result
types of the host's open parameters, and the free values: constants with no body, so that no proof can see them. -/

namespace Sys2Proof

/-- `VARIANT` (R3, R8, D3): which of the two firmware variants the block is built as. -/
inductive Variant
  | A
  | B
  deriving DecidableEq, Repr, Inhabited

/-- The two treatments spec/93_implementation_defined.md U1 and U2 give an out-of-contract command and a reserved
command code. DESIGN CHOICE (log 4): both are modelled, and the build says which. -/
inductive ContractPolicy
  /-- A model refuses what is out of contract (R10, R51, R77). -/
  | refuse
  /-- The block as hardware: it stores whatever 8-bit value a command carries (R139), treats a reserved code as `NOP`
  (R51) and compares unsigned (D10, R74). -/
  | hardware
  deriving DecidableEq, Repr, Inhabited

/-- The static parameters of a build of the block (R8); no operation reads them as data or changes them (R11). -/
structure Build where
  variant : Variant
  dirSwap : Bool
  policy  : ContractPolicy
  deriving DecidableEq, Repr

/-- `COMMIT_STYLE` (R8, D15): how the host changes both fields. -/
inductive CommitStyle
  | atomic
  | split
  deriving DecidableEq, Repr

/-- `SPLIT_ORDER` (R8, D23): which of the two writes of a split update comes first. -/
inductive SplitOrder
  | x0First
  | x1First
  deriving DecidableEq, Repr

/-- What the host's `PARSE` answers (R94, R97). `FORMAT_ERROR` and `RANGE_ERROR` are open parameters of R8 whose only
property is that they differ from each other and from every number, which two constructors give. -/
inductive ParseResult
  | value (n : Nat)
  | formatError
  | rangeError
  deriving DecidableEq, Repr, Inhabited

/-- The two kinds of diagnostic the host reports (R103). -/
inductive Diagnostic
  | format
  | range
  deriving DecidableEq, Repr, Inhabited

/-- What a validate-and-commit operation of the host decides (R99, R100): commit a pair of values, or issue nothing and
report a failure. -/
inductive Verdict
  | commit (p q : Nat)
  | reject (d : Diagnostic)
  deriving DecidableEq, Repr, Inhabited

/-- `TOP` (R7): the largest value the Tick Counter holds. -/
@[simp] def Config.top : Nat := 100

/-- `FRAME_TICKS` (R7): the ticks of one PWM frame. -/
@[simp] def Config.frameTicks : Nat := 101

/-- `DUTY_MAX` (R7): the largest legal duty threshold, power or pwm value. -/
@[simp] def Config.dutyMax : Nat := 100

/-- `DIR_MAX` (R7): the largest legal `direction` value. -/
@[simp] def Config.dirMax : Nat := 1

/-- `CHANNELS` (R7): the number of output channels. -/
@[simp] def Config.channels : Nat := 2

/-- `LINE_CAP` (R7): the usable characters of the host's line buffer. -/
@[simp] def Config.lineCap : Nat := 32

/-- `CNT_RESET` (R8, R24; the spec's decision D5). -/
@[simp] def Config.cntReset : Byte := 0

/-- `OUT_RESET` (R8, R25; the spec's decision D6), the same level for both latches. -/
@[simp] def Config.outReset : Level := .low

/-- `COMMIT_STYLE` (R8, R86; the spec's decision D15): the value for this hardware. `split` is the original firmware's. -/
@[simp] def Config.commitStyle : CommitStyle := .atomic

/-- `TICK_RATE_HZ` (R8, R140): recorded only; no transition reads it (R141). -/
def Config.tickRateHz : Nat := 10000

/-- One tick period in microseconds (R140). -/
def Config.tickPeriodMicros : Nat := 1000000 / Config.tickRateHz

/-- The length of one PWM frame in microseconds (R140). -/
def Config.frameMicros : Nat := Config.frameTicks * Config.tickPeriodMicros

/-- The high time per frame of a channel with threshold `d`, in microseconds (R140). -/
def Config.highMicros (d : Nat) : Nat := (d + 1) * Config.tickPeriodMicros

/-- The build that `State.reset` shows and that `decodeTableWord` reads words for. The value of `dirSwap` is the
spec's (R8). DESIGN CHOICE (log 3): the variant, for which the spec gives no default. DESIGN CHOICE (log 4): the
policy, the one R10, R51 and R77 ask of a model. -/
def Config.shownBuild : Build := { variant := .A, dirSwap := false, policy := .refuse }

/-- Free value (log 7): what the environment presents at the ports when State lists no input vector, by the number of
such samples before it. R38: the order of ticks and commands is left open. -/
opaque Config.portInput : Nat → InputVector

/-- Free value (log 6): the pin level of a tick whose threshold exceeds 100, for which the spec gives no meaning
(R74), by the new counter value and the threshold. -/
opaque Config.outOfContractPin : Byte → Byte → Level

/-- Free value (log 19): `PARSE_LONG` (R8, R98), the parser's answer to a digit string of more than three digits before
R98's constraint is applied; its arguments are the string, `min` and `max`. -/
opaque Config.parseLong : List Byte → Nat → Nat → ParseResult

/-- Free value (log 18): what the host makes of a variant B line with an empty token or a third token (R101, N13),
before the guarantee of R104 is applied. -/
opaque Config.irregularLine : List Byte → Verdict

/-- Free value (log 20): which diagnostic is shown when one value has a format error and the other a range error
(R103). -/
opaque Config.mixedDiagnostic : ParseResult → ParseResult → Diagnostic

/-- Free value (log 17): whether the host drops a character that follows a full line or the `\n` after a `\r` (R93,
N12), by a counter of such choices. -/
opaque Config.dropsChar : Nat → Bool

end Sys2Proof
end

