-- ==== Sys2Proof/Syntax.lean ====
section
/-! DEFINITION. The operations of the block, one constructor per row of spec/opcode_table.json (spec/30_encoding.md
R49), their lanes, and one clock cycle as the operations its lanes select (R47, R48). -/

namespace Sys2Proof

/-- The nine operations of R49. An operand is the whole 8-bit field: all 256 patterns decode (R52), and the bounds are
a contract (R77), not encoding. -/
inductive Instr
  /-- `RESET` (R125). -/
  | reset
  /-- `TICK` (R61). -/
  | tick
  /-- `NOP` (R78). -/
  | nop
  /-- `WRDIR a`, variant A (R79). -/
  | wrdir (a : Byte)
  /-- `WRPWR a`, variant A (R80). -/
  | wrpwr (a : Byte)
  /-- `COMMITA a, b`, variant A (R81). -/
  | commita (a b : Byte)
  /-- `WRPWM1 a`, variant B (R82). -/
  | wrpwm1 (a : Byte)
  /-- `WRPWM2 a`, variant B (R83). -/
  | wrpwm2 (a : Byte)
  /-- `COMMITB a, b`, variant B (R84). -/
  | commitb (a b : Byte)
  deriving DecidableEq, Repr

/-- The three lanes of the input vector (R47). -/
inductive Lane
  | reset
  | tick
  | command
  deriving DecidableEq, Repr

/-- What one clock cycle is (R48): `RESET` alone, or a tick or none followed by one configuration command. -/
inductive Cycle
  | reset
  | lanes (tick : Bool) (command : Instr)
  deriving DecidableEq, Repr

end Sys2Proof
end

