-- ==== Sys2Proof/Machine/Operands.lean ====
section
/-! DEFINITION. The operands of the operations: which build has a mnemonic (spec/30_encoding.md R49), which lane it is
in (R47), and the value bounds of the input contract (spec/41_config_commands.md R77). The only operand forms are an
8-bit immediate in field `a` and an 8-bit immediate in field `b`, used as they stand (R46, R85). -/

namespace Sys2Proof.Machine

/-- The largest legal value of configuration register `i` (R14, R15, R36, R77). -/
def maxLegal : Variant → RegIndex → Nat
  | .A, i => if i = 0#1 then Config.dirMax else Config.dutyMax
  | .B, _ => Config.dutyMax

/-- `v` is a legal value for register `i` (R77). -/
def legalAt (variant : Variant) (i : RegIndex) (v : Byte) : Bool :=
  decide (v.toNat ≤ maxLegal variant i)

/-- The lane that selects an operation (R47, R49). -/
def laneOf : Instr → Lane
  | .reset => .reset
  | .tick => .tick
  | .nop | .wrdir _ | .wrpwr _ | .commita _ _ | .wrpwm1 _ | .wrpwm2 _ | .commitb _ _ => .command

/-- A build of this variant has the mnemonic (R49: "a decoder for one build sees only its own three mnemonics"). -/
def inVariant (variant : Variant) : Instr → Bool
  | .reset | .tick | .nop => true
  | .wrdir _ | .wrpwr _ | .commita _ _ => variant == .A
  | .wrpwm1 _ | .wrpwm2 _ | .commitb _ _ => variant == .B

/-- The operation is in contract (R10, R77): every value it writes is legal for the register it goes to. -/
def inContract : Instr → Bool
  | .reset | .tick | .nop => true
  | .wrdir a => legalAt .A 0#1 a
  | .wrpwr a => legalAt .A 1#1 a
  | .commita a b => legalAt .A 0#1 a && legalAt .A 1#1 b
  | .wrpwm1 a => legalAt .B 0#1 a
  | .wrpwm2 a => legalAt .B 1#1 a
  | .commitb a b => legalAt .B 0#1 a && legalAt .B 1#1 b

end Sys2Proof.Machine
end

