-- ==== Sys2Proof/WellFormed.lean ====
section
/-! DEFINITION. Well-formed operations and cycles of a build: the mnemonic belongs to the variant
(spec/30_encoding.md R49), the operands meet the bounds of the input contract (spec/41_config_commands.md R77), and the
command lane of a cycle holds a command (R47). -/

namespace Sys2Proof

/-- An operation a host of a build of this variant may cause (R10, R49, R77). -/
def Instr.wellFormed (variant : Variant) (i : Instr) : Bool :=
  Machine.inVariant variant i && Machine.inContract i

/-- A cycle whose command lane holds a command of the variant (R47, R49). -/
def Cycle.ofVariant (variant : Variant) : Cycle → Bool
  | .reset => true
  | .lanes _ c => Machine.laneOf c == .command && Machine.inVariant variant c

/-- A cycle of the variant whose command is in contract (R10). -/
def Cycle.wellFormed (variant : Variant) : Cycle → Bool
  | .reset => true
  | .lanes _ c => Machine.laneOf c == .command && c.wellFormed variant

end Sys2Proof
end

