-- ==== Sys2Proof/Decode.lean ====
section
/-! DEFINITION. The decoder of the input vector and the encoder (spec/30_encoding.md R46 to R53), and the opcode table
of R49 as rows of a match and a mask. The decoder and the table are written separately; that they agree is stated in
the obligations. -/

namespace Sys2Proof

/-- `IV[20]`, the reset lane (R46). -/
def rstBit (iv : InputVector) : Bool := iv.getLsbD 20

/-- `IV[19]`, the tick lane (R46). -/
def tickBit (iv : InputVector) : Bool := iv.getLsbD 19

/-- `IV[18:16]`, the command code (R46). -/
def opField (iv : InputVector) : OpCode := iv.extractLsb' 16 3

/-- `IV[15:8]`, the second operand (R46). -/
def bField (iv : InputVector) : Byte := iv.extractLsb' 8 8

/-- `IV[7:0]`, the first operand (R46). -/
def aField (iv : InputVector) : Byte := iv.extractLsb' 0 8

/-- `IV = {rst, tick, op, b, a}` (R46). -/
def inputVector (rst tick : Bool) (op : OpCode) (b a : Byte) : InputVector :=
  BitVec.ofBool rst ++ BitVec.ofBool tick ++ op ++ b ++ a

/-- `WR0`, command code 001, under its name in the variant (R49). -/
def wr0 : Variant → Byte → Instr
  | .A, a => .wrdir a
  | .B, a => .wrpwm1 a

/-- `WR1`, command code 010, under its name in the variant (R49). -/
def wr1 : Variant → Byte → Instr
  | .A, a => .wrpwr a
  | .B, a => .wrpwm2 a

/-- `COMMIT`, command code 011, under its name in the variant (R49). -/
def commit : Variant → Byte → Byte → Instr
  | .A, a, b => .commita a b
  | .B, a, b => .commitb a b

/-- The command a code selects, or none for a reserved code (R49 to R51). -/
def decodeCommand (variant : Variant) (op : OpCode) (b a : Byte) : Option Instr :=
  if op = 0#3 then some .nop
  else if op = 1#3 then some (wr0 variant a)
  else if op = 2#3 then some (wr1 variant a)
  else if op = 3#3 then some (commit variant a b)
  else none

/-- What the decoder answers: a cycle, or a rejection by name. -/
inductive Decoded
  | cycle (c : Cycle)
  /-- A reserved command code with `rst = 0` (R51). -/
  | reservedCode (op : OpCode)
  deriving DecidableEq, Repr

/-- Decode the input vector of a cycle (R47, R48, R51). -/
def decode (variant : Variant) (iv : InputVector) : Decoded :=
  if rstBit iv then .cycle .reset
  else
    match decodeCommand variant (opField iv) (bField iv) (aField iv) with
    | some c => .cycle (.lanes (tickBit iv) c)
    | none => .reservedCode (opField iv)

/-- Decode any natural number read as a word, bit 0 least significant; a word with a bit above bit 20 is no input
vector (R46: 21 bits, fixed width) and gives none. -/
def decodeWord (variant : Variant) (w : Nat) : Option Decoded :=
  if w < 2 ^ 21 then some (decode variant (BitVec.ofNat 21 w)) else none

/-- The operations of a cycle, in the order R48 performs them. -/
def Cycle.operations : Cycle → List Instr
  | .reset => [.reset]
  | .lanes tick c => if tick then [.tick, c] else [c]

/-- The one operation a cycle stands for: a tick with `NOP` in the command lane is the line `TICK` (R54); of a tick and
another command in one cycle it is the first, the tick. DESIGN CHOICE (log 12). -/
def Cycle.principal : Cycle → Instr
  | .reset => .reset
  | .lanes tick c => if tick then .tick else c

/-- The instruction the decoder reads from a word of the opcode table. The table's rows are 21 bits wide, so a word is
one input vector. DESIGN CHOICE (log 11): `WRDIR` and `WRPWM1`, `WRPWR` and `WRPWM2`, `COMMITA` and `COMMITB` share
their words (R49), and they are read in the variant of `Config.shownBuild`. -/
def decodeTableWord (nbits w : Nat) : Option Instr :=
  match decodeWord Config.shownBuild.variant (w % 2 ^ nbits) with
  | some (.cycle c) => some c.principal
  | some (.reservedCode _) => none
  | none => none

/-- The command code of an operation (R49); `RESET` and `TICK` leave the command lane at `NOP` (R54). -/
def Instr.opCode : Instr → OpCode
  | .reset | .tick | .nop => 0#3
  | .wrdir _ | .wrpwm1 _ => 1#3
  | .wrpwr _ | .wrpwm2 _ => 2#3
  | .commita _ _ | .commitb _ _ => 3#3

/-- What stands in field `a`, zero where the operation does not use it (R50, U3). -/
def Instr.aOperand : Instr → Byte
  | .reset | .tick | .nop => 0#8
  | .wrdir a | .wrpwr a | .commita a _ | .wrpwm1 a | .wrpwm2 a | .commitb a _ => a

/-- What stands in field `b`, zero where the operation does not use it (R50, U3). -/
def Instr.bOperand : Instr → Byte
  | .commita _ b | .commitb _ b => b
  | .reset | .tick | .nop | .wrdir _ | .wrpwr _ | .wrpwm1 _ | .wrpwm2 _ => 0#8

/-- The canonical encoding of one operation as a cycle (R54). -/
def encode (i : Instr) : InputVector :=
  inputVector (Machine.laneOf i == .reset) (Machine.laneOf i == .tick) i.opCode i.bOperand i.aOperand

/-- The cycle that performs one operation and nothing else (R54). -/
def Cycle.single (i : Instr) : Cycle :=
  match Machine.laneOf i with
  | .reset => .reset
  | .tick => .lanes true .nop
  | .command => .lanes false i

/-- The canonical encoding of a cycle; a tick and a command in one cycle is the line `TICK ‖ cmd` (R54). -/
def encodeCycle : Cycle → InputVector
  | .reset => encode .reset
  | .lanes tick c => inputVector false tick c.opCode c.bOperand c.aOperand

/-- A row of the opcode table of R49: the vectors with `iv &&& mask = value` perform the operation. -/
structure OpcodeRow where
  mnemonic : String
  /-- `none`: the row is in both variants. -/
  variant  : Option Variant
  lane     : Lane
  value    : InputVector
  mask     : InputVector
  deriving DecidableEq, Repr

/-- The row selects its operation in this cycle (R47). -/
def OpcodeRow.selects (r : OpcodeRow) (iv : InputVector) : Bool := iv &&& r.mask == r.value

/-- The row is in a build of this variant (R49). -/
def OpcodeRow.inBuild (r : OpcodeRow) (variant : Variant) : Bool :=
  r.variant == none || r.variant == some variant

/-- The row of R49's table for an operation. -/
def Instr.row : Instr → OpcodeRow
  | .reset => ⟨"RESET", none, .reset, 0x100000, 0x100000⟩
  | .tick => ⟨"TICK", none, .tick, 0x080000, 0x180000⟩
  | .nop => ⟨"NOP", none, .command, 0x000000, 0x170000⟩
  | .wrdir _ => ⟨"WRDIR", some .A, .command, 0x010000, 0x170000⟩
  | .wrpwr _ => ⟨"WRPWR", some .A, .command, 0x020000, 0x170000⟩
  | .commita _ _ => ⟨"COMMITA", some .A, .command, 0x030000, 0x170000⟩
  | .wrpwm1 _ => ⟨"WRPWM1", some .B, .command, 0x010000, 0x170000⟩
  | .wrpwm2 _ => ⟨"WRPWM2", some .B, .command, 0x020000, 0x170000⟩
  | .commitb _ _ => ⟨"COMMITB", some .B, .command, 0x030000, 0x170000⟩

/-- The nine rows of R49, in the table's order. -/
def opcodeTable : List OpcodeRow :=
  [Instr.row .reset, Instr.row .tick, Instr.row .nop,
   Instr.row (.wrdir 0), Instr.row (.wrpwr 0), Instr.row (.commita 0 0),
   Instr.row (.wrpwm1 0), Instr.row (.wrpwm2 0), Instr.row (.commitb 0 0)]

end Sys2Proof
end

