-- ==== Sys2Proof/Machine/State.lean ====
section
/-! DEFINITION. The state of the block (spec/10_state.md R11: five elements, 26 bits, "Nothing else is state"), with
the model's own fields beside them (the build's static parameters and the environment's input vectors), the reasons a
step can stop, and the state after reset. -/

namespace Sys2Proof.Machine

/-- The state. `cnt`, `x0`, `x1`, `out1`, `out2` are the block's five elements (R11 to R18). `build`, `inputs` and
`samples` are the model's own (log 2, log 7): no operation of the block writes them. -/
structure State where
  /-- The Tick Counter (R12). -/
  cnt     : Byte
  /-- `x[0]`: `direction` in variant A, `pwm1` in variant B (R13 to R15). -/
  x0      : Byte
  /-- `x[1]`: `power` in variant A, `pwm2` in variant B (R13 to R15). -/
  x1      : Byte
  /-- The output latch and pin of channel 1 (R18). -/
  out1    : Level
  /-- The output latch and pin of channel 2 (R18). -/
  out2    : Level
  /-- The static parameters of the build (R8). -/
  build   : Build
  /-- The input vectors the environment will present at the coming clock edges, next one first (R45). -/
  inputs  : List InputVector
  /-- How many vectors have been taken from the free environment `Config.portInput`. -/
  samples : Nat
  deriving DecidableEq, Repr

/-- The block raises no exception, fault or trap (60_exceptions.md R107, 40_tick_pwm_engine.md R62), so there is no
reason for a fault. Nothing raises one; the empty type is safe. -/
inductive Fault : Type
  deriving DecidableEq, Repr

/-- Why the model gives a step no meaning. -/
inductive Refusal
  /-- An operation whose meaning is not written yet; raised by no arm of `exec`. Safe. -/
  | notModelled (mnemonic : String)
  /-- A command with a value above its bound, under `policy = refuse` (R10, R77, U1); raised by the six writing
  commands. Safe: hardware goes on. -/
  | outOfContract
  /-- A reserved command code in a cycle with `rst = 0`, under `policy = refuse` (R51, U2); raised by the clock edge.
  Safe: hardware goes on. -/
  | reservedCode
  /-- A mnemonic that this build does not have (R49); raised by the six writing commands, never by a clock edge, whose
  decoder sees only its own variant's mnemonics. Safe. -/
  | otherVariant
  deriving DecidableEq, Repr

/-- The block of a given build right after reset (R23 to R25, R125), with no input vector listed. -/
def State.resetOf (build : Build) : State :=
  { cnt := Config.cntReset, x0 := 0, x1 := 0, out1 := Config.outReset, out2 := Config.outReset,
    build := build, inputs := [], samples := 0 }

/-- The machine right after reset (R125, R127). DESIGN CHOICE (log 3, log 4): the build it shows. -/
def State.reset : State := State.resetOf Config.shownBuild

end Sys2Proof.Machine
end

