-- ==== Sys2Proof/Machine/Ops.lean ====
section
/-! DEFINITION. The named operations over the state: reads and writes of the configuration register space
(spec/00_scope.md section 7, spec/20_memory.md R29 to R36), the write of the tick's results, clearing the block,
sampling the ports (spec/30_encoding.md R45), and the shared shape of the host's commands. The spec describes no
exception entry and no return (spec/60_exceptions.md R107, R114, R116), so there is no such operation. -/

namespace Sys2Proof.Machine

/-- What a step or an operation answers. -/
abbrev Answer := Host.Outcome State Fault Refusal

/-- Run `f` on the state an operation leaves; a stop stays a stop. -/
def andThen (o : Answer) (f : State → Answer) : Answer :=
  match o with
  | .next s => f s
  | .fault r => .fault r
  | .refused r => .refused r

/-- `MemRead(i, 1) = x[i]` (00_scope.md section 7, R85): the 8 bits last stored. -/
def State.memRead (s : State) (i : RegIndex) : Byte := if i = 0#1 then s.x0 else s.x1

/-- `MemWrite(i, 1, v)`, that is `x[i] <- v` (00_scope.md section 7, R13): all 8 bits are stored, nothing else
changes (R35). -/
def State.memWrite (s : State) (i : RegIndex) (v : Byte) : State :=
  if i = 0#1 then { s with x0 := v } else { s with x1 := v }

/-- `MemWrite(0, 2, {v1, v0})`: the simultaneous pair `x[0] <- v0 ‖ x[1] <- v1` of `COMMIT` (R34). -/
def State.memWritePair (s : State) (v0 v1 : Byte) : State := { s with x0 := v0, x1 := v1 }

/-- The three writes of a `TICK`, which land together (R61, D25). -/
def State.latch (s : State) (cnt : Byte) (out1 out2 : Level) : State :=
  { s with cnt := cnt, out1 := out1, out2 := out2 }

/-- The five writes of `RESET` (R125). -/
def State.cleared (s : State) : State :=
  { s with cnt := Config.cntReset, x0 := 0, x1 := 0, out1 := Config.outReset, out2 := Config.outReset }

/-- The pin levels, the only elements of the block visible outside it (R28). -/
def State.pins (s : State) : Level × Level := (s.out1, s.out2)

/-- The environment presents an input vector at the next clock edge (R45). -/
def State.present (s : State) (iv : InputVector) : State := { s with inputs := iv :: s.inputs }

/-- The input vector of this clock edge (R45): the next one listed, or, when none is listed, whatever the environment
presents (log 7). -/
def State.sampled (s : State) : InputVector :=
  match s.inputs with
  | iv :: _ => iv
  | [] => Config.portInput s.samples

/-- The state after the ports were sampled; the block's five elements are as before. -/
def State.afterSample (s : State) : State :=
  match s.inputs with
  | _ :: rest => { s with inputs := rest }
  | [] => { s with samples := s.samples + 1 }

/-- A command of the host (R75 to R77, R139): a build of another variant does not have it (R49); under
`policy = refuse` it has a meaning only in contract (R10, R77, U1); under `policy = hardware` the block, which does not
check the bounds, performs it. `after` is the state it leaves. -/
def hostCommand (variant : Variant) (legal : Bool) (s after : State) : Answer :=
  if s.build.variant ≠ variant then .refused .otherVariant
  else if legal = true ∨ s.build.policy = .hardware then .next after
  else .refused .outOfContract

end Sys2Proof.Machine
end

