-- ==== Sys2Proof/Machine/Commands.lean ====
section
/-! DEFINITION. The configuration commands (spec/41_config_commands.md R75 to R87): `NOP`, and per variant `WR0`, `WR1`
and `COMMIT` under their names. -/

namespace Sys2Proof.Machine

/-- `NOP` (R78): nothing is read or written. -/
def execNop (s : State) : Answer := .next s

/-- `WRDIR a` (R79): `x[0] <- a`. -/
def execWrdir (a : Byte) (s : State) : Answer :=
  hostCommand .A (legalAt .A 0#1 a) s (s.memWrite 0#1 a)

/-- `WRPWR a` (R80): `x[1] <- a`. -/
def execWrpwr (a : Byte) (s : State) : Answer :=
  hostCommand .A (legalAt .A 1#1 a) s (s.memWrite 1#1 a)

/-- `COMMITA a, b` (R81): `x[0] <- a ‖ x[1] <- b`. -/
def execCommita (a b : Byte) (s : State) : Answer :=
  hostCommand .A (legalAt .A 0#1 a && legalAt .A 1#1 b) s (s.memWritePair a b)

/-- `WRPWM1 a` (R82): `x[0] <- a`. -/
def execWrpwm1 (a : Byte) (s : State) : Answer :=
  hostCommand .B (legalAt .B 0#1 a) s (s.memWrite 0#1 a)

/-- `WRPWM2 a` (R83): `x[1] <- a`. -/
def execWrpwm2 (a : Byte) (s : State) : Answer :=
  hostCommand .B (legalAt .B 1#1 a) s (s.memWrite 1#1 a)

/-- `COMMITB a, b` (R84): `x[0] <- a ‖ x[1] <- b`. -/
def execCommitb (a b : Byte) (s : State) : Answer :=
  hostCommand .B (legalAt .B 0#1 a && legalAt .B 1#1 b) s (s.memWritePair a b)

end Sys2Proof.Machine
end

