-- ==== Sys2Proof/Machine/Reset.lean ====
section
/-! DEFINITION. The operation `RESET` (spec/70_reset_and_hazards.md R125 to R127). -/

namespace Sys2Proof.Machine

/-- `RESET` (R125): all five elements to their reset values, whatever they were. -/
def execReset (s : State) : Answer := .next s.cleared

end Sys2Proof.Machine
end

