-- ==== Sys2Proof/Machine/Flags.lean ====
section
/-! DEFINITION. The block has no flags and no condition codes (spec/10_state.md R20). What it computes in their place
is the comparators' results (spec/40_tick_pwm_engine.md R60), which stand here. -/

namespace Sys2Proof.Machine

/-- `pin = (counter > duty) ? low : high`, unsigned on 8-bit values (R60, R63). -/
def unsignedPin (counter duty : Byte) : Level :=
  if counter.toNat > duty.toNat then .low else .high

/-- One comparator (R60). For a threshold above 100 the spec gives no meaning (R74) and a model must not rely on the
unsigned reading: under `policy = refuse` the level is the free value `Config.outOfContractPin`; under
`policy = hardware` it is the unsigned formula, as D10 describes the hardware (log 6). -/
def comparator (policy : ContractPolicy) (counter duty : Byte) : Level :=
  if policy = .refuse ∧ duty.toNat > Config.dutyMax then Config.outOfContractPin counter duty
  else unsignedPin counter duty

end Sys2Proof.Machine
end

