-- ==== Sys2Proof/Machine/Tick.lean ====
section
/-! DEFINITION. The operation `TICK` (spec/40_tick_pwm_engine.md R57 to R62): counter step, duty derivation,
comparators and output latches. -/

namespace Sys2Proof.Machine

/-- The counter step (R57): `c1 = cnt + 1` as a natural number, and 0 if it exceeds 100. For `cnt` in 101..255 this is
what R73 gives (log 10). -/
def nextCount (cnt : Byte) : Byte :=
  if cnt.toNat + 1 > Config.top then 0 else BitVec.ofNat 8 (cnt.toNat + 1)

/-- The direction multiplexer of variant A with `DIR_SWAP = false` (R58). -/
def directionMux (direction power : Byte) : Byte × Byte :=
  if direction = 1 then (power, 0) else (0, power)

/-- The Duty Pair (`duty1`, `duty2`) a tick derives from the Configuration State (R58 with `DIR_SWAP`, R59). -/
def dutyPair (build : Build) (x0 x1 : Byte) : Byte × Byte :=
  match build.variant with
  | .A => if build.dirSwap then (directionMux x0 x1).swap else directionMux x0 x1
  | .B => (x0, x1)

/-- The Duty Pair of a state (R19: derived, not stored). -/
def State.duties (s : State) : Byte × Byte := dutyPair s.build (s.memRead 0#1) (s.memRead 1#1)

/-- The state a `TICK` leaves (R61). -/
def State.ticked (s : State) : State :=
  s.latch (nextCount s.cnt)
    (comparator s.build.policy (nextCount s.cnt) s.duties.1)
    (comparator s.build.policy (nextCount s.cnt) s.duties.2)

/-- `TICK` (R61). It never fails (R62). -/
def execTick (s : State) : Answer := .next s.ticked

end Sys2Proof.Machine
end

