-- ==== Sys2Proof/Machine/Dispatch.lean ====
section
/-! DEFINITION. One operation on one state: the operation level, which is the normative one (spec/00_scope.md R9). -/

namespace Sys2Proof.Machine

def exec (i : Instr) (s : State) : Host.Outcome State Fault Refusal :=
  match i with
  | .reset => Sys2Proof.Machine.execReset s
  | .tick => Sys2Proof.Machine.execTick s
  | .nop => Sys2Proof.Machine.execNop s
  | .wrdir a => Sys2Proof.Machine.execWrdir a s
  | .wrpwr a => Sys2Proof.Machine.execWrpwr a s
  | .commita a b => Sys2Proof.Machine.execCommita a b s
  | .wrpwm1 a => Sys2Proof.Machine.execWrpwm1 a s
  | .wrpwm2 a => Sys2Proof.Machine.execWrpwm2 a s
  | .commitb a b => Sys2Proof.Machine.execCommitb a b s

end Sys2Proof.Machine
end

