-- ==== Sys2Proof/Machine/ClockEdge.lean ====
section
/-! DEFINITION. One clock cycle as a fixed composition of operations (spec/30_encoding.md R48), and what a cycle with a
reserved command code is (R51). -/

namespace Sys2Proof.Machine

/-- The composition of R48: `RESET` alone, or the tick, on the state before, and then the command. -/
def runCycle (c : Cycle) (s : State) : Answer :=
  match c with
  | .reset => exec .reset s
  | .lanes tick command => andThen (if tick then exec .tick s else .next s) (exec command)

/-- A cycle with a reserved command code (R51, U2): a model refuses it; hardware treats the code as `NOP`, so the tick
lane still acts. -/
def reservedCycle (tick : Bool) (s : State) : Answer :=
  match s.build.policy with
  | .refuse => .refused .reservedCode
  | .hardware => runCycle (.lanes tick .nop) s

/-- The clock edge at which the input vector `iv` is sampled (R45 to R51). -/
def clockEdge (iv : InputVector) (s : State) : Answer :=
  match decode s.build.variant iv with
  | .cycle c => runCycle c s
  | .reservedCode _ => reservedCycle (tickBit iv) s

end Sys2Proof.Machine
end

