-- ==== Sys2Proof/Machine/Step.lean ====
section
/-! DEFINITION. One step of the machine: one clock cycle (spec/30_encoding.md R45, R48), and how a word of the opcode
table is presented at the ports. -/

namespace Sys2Proof.Machine

/-- One clock cycle: the ports are sampled once (R45) and the cycle's operations are performed (R48). -/
def step (s : State) : Host.Outcome State Fault Refusal :=
  clockEdge s.sampled s.afterSample

/-- The machine with a word of the opcode table at its ports at the next clock edge. The block fetches nothing (R36,
R42): its program is what its environment presents (log 8). -/
def State.withFetchWord (s : State) (nbits w : Nat) : State :=
  s.present (BitVec.ofNat 21 (w % 2 ^ nbits))

end Sys2Proof.Machine
end

