-- ==== Sys2Proof/Machine/Parser.lean ====
section
/-! DEFINITION. The host's operations on text (spec/42_configuration_channel.md R93 to R101): `READLINE`, `PARSE`,
tokenising, and the verdicts of `VALIDATE_COMMIT_A` and `VALIDATE_COMMIT_B`. They are the host's, not the block's
(R89). A character is its ASCII byte (R90). -/

namespace Sys2Proof.Machine

/-- How a line ended: at a newline, at a carriage return, or at the buffer's capacity (R93). -/
inductive LineEnd
  | newline
  | carriageReturn
  | full
  deriving DecidableEq, Repr

/-- What one character does to the line buffer. -/
inductive LineStep
  | more (buf : List Byte)
  | done (line : List Byte) (ending : LineEnd)
  deriving DecidableEq, Repr

/-- How a terminator ends a line, `\n` or `\r` (R90, R93); none for any other character. -/
def terminatorEnd (ch : Byte) : Option LineEnd :=
  if ch = 0x0A then some .newline else if ch = 0x0D then some .carriageReturn else none

/-- One turn of `READLINE`'s loop (R93): the terminator is not stored, every other character is, and the line ends when
the buffer holds `LINE_CAP` characters. No editing (U21). -/
def feedLine (buf : List Byte) (ch : Byte) : LineStep :=
  match terminatorEnd ch with
  | some ending => .done buf ending
  | none =>
    if (buf ++ [ch]).length = Config.lineCap then .done (buf ++ [ch]) .full
    else .more (buf ++ [ch])

/-- `READLINE`'s loop from a buffer: the line and the characters not read, or none while it blocks (R93). -/
def readLineFrom (buf : List Byte) : List Byte → Option (List Byte × List Byte)
  | [] => none
  | ch :: rest =>
    match feedLine buf ch with
    | .done line _ => some (line, rest)
    | .more buf' => readLineFrom buf' rest

/-- `READLINE` on a character stream (R93). What happens to the characters after a full line is open (log 17): this
function returns them, the agent `Channel` may drop them. -/
def readLine (stream : List Byte) : Option (List Byte × List Byte) := readLineFrom [] stream

/-- An ASCII digit `0` to `9` (R94). -/
def isDigit (ch : Byte) : Bool := decide (0x30 ≤ ch.toNat) && decide (ch.toNat ≤ 0x39)

/-- The decimal value of a digit string (R94). -/
def decimal (cs : List Byte) : Nat := cs.foldl (fun n ch => 10 * n + (ch.toNat - 0x30)) 0

/-- A number within the bound, or a range error (R94, R96). -/
def ranged (v min max : Nat) : ParseResult := if min ≤ v ∧ v ≤ max then .value v else .rangeError

/-- R98's constraint on `PARSE_LONG`: an integer in `[min, max]` or one of the two errors, and nothing else. -/
def boundResult (r : ParseResult) (min max : Nat) : ParseResult :=
  match r with
  | .value v => ranged v min max
  | .formatError => .formatError
  | .rangeError => .rangeError

/-- The default of `PARSE_LONG` (R98): the exact reading. -/
def parseLongExact (cs : List Byte) (min max : Nat) : ParseResult := ranged (decimal cs) min max

/-- `PARSE(s, min, max)` (R94 to R98), with `PARSE_LONG` as an argument; `none` is the null string. The format check
comes first (R95). -/
def parse (long : List Byte → Nat → Nat → ParseResult) (s : Option (List Byte)) (min max : Nat) : ParseResult :=
  match s with
  | none => .formatError
  | some [] => .formatError
  | some (c :: cs) =>
    if (c :: cs).all isDigit = false then .formatError
    else if (c :: cs).length ≤ 3 then ranged (decimal (c :: cs)) min max
    else boundResult (long (c :: cs) min max) min max

/-- The diagnostic for a pair of results of which at least one is an error (R103); open when the two errors differ
(log 20). -/
def diagnose (p q : ParseResult) : Diagnostic :=
  match p, q with
  | .formatError, .rangeError => Config.mixedDiagnostic p q
  | .rangeError, .formatError => Config.mixedDiagnostic p q
  | .rangeError, _ => .range
  | _, .rangeError => .range
  | _, _ => .format

/-- Commit only if both values parsed (R99, R100). -/
def judge (p q : ParseResult) : Verdict :=
  match p, q with
  | .value m, .value n => .commit m n
  | _, _ => .reject (diagnose p q)

/-- The verdict of `VALIDATE_COMMIT_A` on its two lines (R99). -/
def verdictA (long : List Byte → Nat → Nat → ParseResult) (directionLine powerLine : List Byte) : Verdict :=
  judge (parse long (some directionLine) 0 Config.dirMax) (parse long (some powerLine) 0 Config.dutyMax)

/-- The tokens of a line split at each single space (R101). -/
def splitSpaces : List Byte → List (List Byte)
  | [] => [[]]
  | ch :: rest =>
    if ch = 0x20 then [] :: splitSpaces rest
    else
      match splitSpaces rest with
      | [] => [[ch]]
      | t :: ts => (ch :: t) :: ts

/-- R104's guarantee applied to a verdict the spec leaves open: no command, or an in-contract one. -/
def boundVerdict (v : Verdict) : Verdict :=
  match v with
  | .commit p q => if p ≤ Config.dutyMax ∧ q ≤ Config.dutyMax then .commit p q else .reject .range
  | .reject d => .reject d

/-- The verdict of `VALIDATE_COMMIT_B` on its line (R100, R101). A missing second token is a null string. For a line
with an empty token among several, or a third token, the spec leaves the verdict open (log 18). -/
def verdictB (long : List Byte → Nat → Nat → ParseResult) (line : List Byte) : Verdict :=
  match splitSpaces line with
  | [t1] => judge (parse long (some t1) 0 Config.dutyMax) (parse long none 0 Config.dutyMax)
  | [t1, t2] =>
    if t1 = [] ∨ t2 = [] then boundVerdict (Config.irregularLine line)
    else judge (parse long (some t1) 0 Config.dutyMax) (parse long (some t2) 0 Config.dutyMax)
  | _ => boundVerdict (Config.irregularLine line)

end Sys2Proof.Machine
end

