-- ==== Sys2Proof/Machine/Trace.lean ====
section
/-! DEFINITION. Runs: sequences of operations (spec/20_memory.md R38), ticks in a row, sequences of clock cycles, and
the trace notation with its pseudo-operations (spec/30_encoding.md R54, R55). -/

namespace Sys2Proof.Machine

/-- A run at the operation level: each operation acts on the state the one before it left (R38). -/
def runOps : List Instr → State → Answer
  | [], s => .next s
  | i :: rest, s => andThen (exec i s) (runOps rest)

/-- The waveform of a run (R28): the pin levels after each tick, one pair per tick, as far as the run goes. -/
def waveform : List Instr → State → List (Level × Level)
  | [], _ => []
  | i :: rest, s =>
    match exec i s with
    | .next t => if laneOf i = .tick then t.pins :: waveform rest t else waveform rest t
    | .fault _ => []
    | .refused _ => []

/-- The state after `n` ticks with nothing between them. -/
def ticks : Nat → State → State
  | 0, s => s
  | n + 1, s => (ticks n s).ticked

/-- The state after `n` clock edges at which the vectors `env 0`, `env 1`, ... are sampled. -/
def clockEdges (env : Nat → InputVector) : Nat → State → Answer
  | 0, s => .next s
  | n + 1, s => andThen (clockEdges env n s) (clockEdge (env n))

/-- A pair update as the host issues it: `SETA` and `SETB` of R55, by `COMMIT_STYLE` and `SPLIT_ORDER`. The style for
this hardware is `Config.commitStyle` (R8, R86); the order is open (R8, D23). -/
def setPair (variant : Variant) (style : CommitStyle) (order : SplitOrder) (v0 v1 : Byte) : List Instr :=
  match style, order with
  | .atomic, _ => [commit variant v0 v1]
  | .split, .x0First => [wr0 variant v0, wr1 variant v1]
  | .split, .x1First => [wr1 variant v1, wr0 variant v0]

/-- A line of a trace (R54), pseudo-operations included (R55). -/
inductive Line
  /-- One operation. -/
  | op (i : Instr)
  /-- `TICK ‖ cmd`: a tick and a command in the same cycle. -/
  | tickWith (command : Instr)
  /-- `TICKS n`. -/
  | ticks (n : Nat)
  /-- `FRAME`. -/
  | frame
  /-- `IDLE n`. -/
  | idle (n : Nat)
  /-- `SETA d, p`. -/
  | seta (d p : Byte)
  /-- `SETB p1, p2`. -/
  | setb (p1 p2 : Byte)
  deriving DecidableEq, Repr

/-- The cycles of a line, one after another (R54, R55); in the split forms of `SETA` and `SETB` the environment may
present further ticks between them. -/
def lineCycles (style : CommitStyle) (order : SplitOrder) : Line → List Cycle
  | .op i => [Cycle.single i]
  | .tickWith c => [.lanes true c]
  | .ticks n => List.replicate n (Cycle.single .tick)
  | .frame => List.replicate Config.frameTicks (Cycle.single .tick)
  | .idle n => List.replicate n (Cycle.single .nop)
  | .seta d p => (setPair .A style order d p).map Cycle.single
  | .setb p1 p2 => (setPair .B style order p1 p2).map Cycle.single

/-- The input vectors of a trace (R54). -/
def traceVectors (style : CommitStyle) (order : SplitOrder) (lines : List Line) : List InputVector :=
  (lines.flatMap (lineCycles style order)).map encodeCycle

/-- The input vectors of a trace with the `COMMIT_STYLE` for this hardware (R8, R86). -/
def standardTraceVectors (order : SplitOrder) (lines : List Line) : List InputVector :=
  traceVectors Config.commitStyle order lines

/-- The state with a trace to be presented after what is already listed. -/
def State.presentTrace (s : State) (style : CommitStyle) (order : SplitOrder) (lines : List Line) : State :=
  { s with inputs := s.inputs ++ traceVectors style order lines }

/-- The text of one operation (R54). -/
def showInstr : Instr → String
  | .reset => "RESET"
  | .tick => "TICK"
  | .nop => "NOP"
  | .wrdir a => "WRDIR " ++ toString a.toNat
  | .wrpwr a => "WRPWR " ++ toString a.toNat
  | .commita a b => "COMMITA " ++ toString a.toNat ++ ", " ++ toString b.toNat
  | .wrpwm1 a => "WRPWM1 " ++ toString a.toNat
  | .wrpwm2 a => "WRPWM2 " ++ toString a.toNat
  | .commitb a b => "COMMITB " ++ toString a.toNat ++ ", " ++ toString b.toNat

/-- The text of a line (R54, R55). -/
def showLine : Line → String
  | .op i => showInstr i
  | .tickWith c => "TICK ‖ " ++ showInstr c
  | .ticks n => "TICKS " ++ toString n
  | .frame => "FRAME"
  | .idle n => "IDLE " ++ toString n
  | .seta d p => "SETA " ++ toString d.toNat ++ ", " ++ toString p.toNat
  | .setb p1 p2 => "SETB " ++ toString p1.toNat ++ ", " ++ toString p2.toNat

end Sys2Proof.Machine
end

