-- ==== Sys2Proof/Machine/Channel.lean ====
section
/-! DEFINITION. The block's host as an agent of its own: the console loop of the Configuration Channel
(spec/42_configuration_channel.md R88 to R105) at the contract level. Its state is private to it (R92) and no part of
the block. Prompts and message texts are presentation only (R91) and are not modelled. -/

namespace Sys2Proof.Machine

/-- Where the loop stands (R88, R99, R100, R102). -/
inductive Phase
  /-- Variant A: reading the direction line. -/
  | direction
  /-- Variant A: reading the power line; the direction line has been read. -/
  | power (directionLine : List Byte)
  /-- Variant B: reading the line with both values. -/
  | pair
  /-- A pair has validated and its commands are being issued; it is reported once all are (R99, R100, R102). -/
  | issuing (p q : Nat)
  /-- After a successful commit and its echo: waiting for the operator to press enter (R102). -/
  | pause
  deriving DecidableEq, Repr

/-- What the host last reported: the echo of accepted values (R102) or a diagnostic (R103). -/
inductive Report
  | accepted (p q : Nat)
  | failed (d : Diagnostic)
  deriving DecidableEq, Repr

/-- The host agent. `variant`, `style` and `order` are static (R8). -/
structure Channel where
  variant : Variant
  style   : CommitStyle
  order   : SplitOrder
  phase   : Phase
  /-- The line buffer of the line being read (R93). -/
  buf     : List Byte
  /-- How the last line, or the pause, or the rest of a full line ended, while nothing has been read after it. -/
  after   : Option LineEnd
  /-- The characters that have arrived and are not read yet (R90, R105). -/
  stream  : List Byte
  /-- The commands of a pair update that are still to be issued (R55). -/
  queue   : List Instr
  report  : Option Report
  /-- A counter for the free choices of log 17. -/
  choices : Nat
  deriving DecidableEq, Repr

/-- The top of the loop (R88). -/
def topPhase : Variant → Phase
  | .A => .direction
  | .B => .pair

/-- The host at start-up: at the top of its loop, nothing read, nothing to issue. -/
def Channel.start (variant : Variant) (style : CommitStyle) (order : SplitOrder) : Channel :=
  { variant := variant, style := style, order := order, phase := topPhase variant, buf := [], after := none,
    stream := [], queue := [], report := none, choices := 0 }

/-- The host with the `COMMIT_STYLE` for this hardware (R8, R86), at start-up. -/
def Channel.standard (variant : Variant) (order : SplitOrder) : Channel :=
  Channel.start variant Config.commitStyle order

/-- What a verdict makes the host do (R99, R100, R102, R103): on success it has the commands of `SETA` or `SETB` to
issue, and reports only after that (`Channel.echo`); on failure it issues nothing, reports, and is back at the top of
the loop. -/
def Channel.conclude (c : Channel) (v : Verdict) : Channel :=
  match v with
  | .commit p q =>
    { c with
      queue := c.queue ++ setPair c.variant c.style c.order (BitVec.ofNat 8 p) (BitVec.ofNat 8 q)
      phase := .issuing p q }
  | .reject d => { c with report := some (.failed d), phase := topPhase c.variant }

/-- The report of a success, after the commit (R99, R102): the host echoes its own parsed values and pauses. -/
def Channel.echo (c : Channel) (p q : Nat) : Channel := { c with report := some (.accepted p q), phase := .pause }

/-- The host has read a whole line (R99, R100). Both lines of variant A are read before either is judged (D22). -/
def Channel.lineRead (c : Channel) (line : List Byte) : Channel :=
  match c.phase with
  | .direction => { c with phase := .power line }
  | .power directionLine => c.conclude (verdictA Config.parseLong directionLine line)
  | .pair => c.conclude (verdictB Config.parseLong line)
  | .issuing _ _ | .pause => c

/-- The character may be left out of what the host reads next: one that follows a full line, or the `\n` after any `\r`,
be it the end of a line, of the pause or of the rest of a full line. R93 and N12 leave it open (log 17). -/
def Channel.mayDrop (c : Channel) (ch : Byte) : Bool :=
  match c.after with
  | some .full => true
  | some .carriageReturn => ch == 0x0A
  | some .newline => false
  | none => false

/-- The host reads a character into its line buffer (R93). -/
def Channel.bufferChar (c : Channel) (ch : Byte) : Channel :=
  match feedLine c.buf ch with
  | .more buf => { c with buf := buf, after := none }
  | .done line ending => Channel.lineRead { c with buf := [], after := some ending } line

/-- The host reads a character into its line buffer, or in the pause waits for enter (R93, R102), which is either
terminator: DESIGN CHOICE (log 21), like that a character that is no terminator does nothing there. While the host
issues commands it reads nothing (`Channel.move`). -/
def Channel.takeChar (c : Channel) (ch : Byte) : Channel :=
  match c.phase with
  | .pause =>
    match terminatorEnd ch with
    | some ending => { c with phase := topPhase c.variant, after := some ending }
    | none => { c with after := none }
  | .issuing _ _ => c
  | .direction | .power _ | .pair => c.bufferChar ch

/-- The host drops a character, by a free choice (log 17); a dropped terminator ends the rest of the line as
it would end a line, so that what follows a dropped `\r` is as open as what follows any other. -/
def Channel.dropChar (c : Channel) (ch : Byte) : Channel :=
  match terminatorEnd ch with
  | some ending => { c with after := some ending }
  | none => c

/-- The host consumes one character of the stream (R90: one character per call). -/
def Channel.consume (c : Channel) (ch : Byte) : Channel :=
  if c.mayDrop ch then
    if Config.dropsChar c.choices then Channel.dropChar { c with choices := c.choices + 1 } ch
    else Channel.takeChar { c with choices := c.choices + 1 } ch
  else c.takeChar ch

/-- The host reads a character if one has arrived, and blocks if none has (R90, R105). -/
def Channel.readNext (c : Channel) : Channel :=
  match c.stream with
  | [] => c
  | ch :: rest => Channel.consume { c with stream := rest } ch

/-- One move of the foreground loop (R88, R99, R100, R105). While commands of an update are still to be issued the host
does nothing else (log 22); when they have been issued it echoes; otherwise it reads. -/
def Channel.move (c : Channel) : Channel :=
  match c.queue, c.phase with
  | _ :: _, _ => c
  | [], .issuing p q => c.echo p q
  | [], .direction | [], .power _ | [], .pair | [], .pause => c.readNext

/-- A character arrives from the operator (R90). -/
def Channel.receive (c : Channel) (ch : Byte) : Channel := { c with stream := c.stream ++ [ch] }

/-- What the host puts in the command lane of a cycle: its next command if it issues one, else `NOP` (R78). -/
def Channel.commandLane (c : Channel) (issue : Bool) : Instr :=
  if issue then c.queue.headD .nop else .nop

/-- The host after a cycle. -/
def Channel.afterCycle (c : Channel) (issue : Bool) : Channel :=
  if issue then { c with queue := c.queue.tail } else c

end Sys2Proof.Machine
end

