-- ==== Sys2Proof/Machine/System.lean ====
section
/-! DEFINITION. The whole system of spec/00_scope.md R6: the block, the host agent that drives its command lane, and the
timer and the reset, which are events of the environment. The order of events is data of the run, so a claim about
every event holds for every interleaving (spec/20_memory.md R38). -/

namespace Sys2Proof.Machine

/-- The block and its host; they share nothing but the command lane (R92, R122). -/
structure System where
  block   : State
  channel : Channel
  deriving DecidableEq, Repr

/-- The system at start-up: power-on is a `RESET` of the block (R127), and the host has the `COMMIT_STYLE` for this
hardware (R8, R86). -/
def System.start (build : Build) (order : SplitOrder) : System :=
  { block := State.resetOf build, channel := Channel.standard build.variant order }

/-- What happens next. -/
inductive Event
  /-- The operator's terminal delivers a character (R90). -/
  | key (ch : Byte)
  /-- The foreground loop makes a move. -/
  | host
  /-- A clock edge; `rst` and `tick` are the environment's, and the host issues its next command if `issue` is true. -/
  | cycle (rst tick issue : Bool)
  deriving DecidableEq, Repr

/-- The input vector of a cycle in which the host drives the command lane. -/
def hostVector (rst tick : Bool) (command : Instr) : InputVector :=
  inputVector rst tick command.opCode command.bOperand command.aOperand

/-- One event of the system. A key or a move of the host does not touch the block (R89, R92). -/
def System.step (e : Event) (S : System) : Host.Outcome System Fault Refusal :=
  match e with
  | .key ch => .next { S with channel := S.channel.receive ch }
  | .host => .next { S with channel := S.channel.move }
  | .cycle rst tick issue =>
    match Sys2Proof.Machine.step (S.block.present (hostVector rst tick (S.channel.commandLane issue))) with
    | .next t => .next { block := t, channel := S.channel.afterCycle issue }
    | .fault r => .fault r
    | .refused r => .refused r

/-- A run of the system: one event after another. -/
def System.run : List Event → System → Host.Outcome System Fault Refusal
  | [], S => .next S
  | e :: rest, S =>
    match System.step e S with
    | .next S' => System.run rest S'
    | .fault r => .fault r
    | .refused r => .refused r

end Sys2Proof.Machine
end

