-- ==== Sys2Proof/Safety.lean ====
section
/-! DEFINITION. What claims are stated in terms of: the range invariant (spec/10_state.md R17, R27), the input contract
on a vector (spec/42_configuration_channel.md R104), safe runs, the system's invariant, and the premise that ticks
recur (spec/60_exceptions.md R120). -/

namespace Sys2Proof

open Machine

/-- The Tick Counter is in its range (R27). -/
abbrev CounterInRange (s : State) : Prop := s.cnt.toNat ≤ Config.top

/-- The Configuration State is in its range (R17). -/
abbrev ConfigInRange (s : State) : Prop :=
  s.x0.toNat ≤ maxLegal s.build.variant 0#1 ∧ s.x1.toNat ≤ maxLegal s.build.variant 1#1

/-- The range invariant of R17 and R27. -/
abbrev InRange (s : State) : Prop := CounterInRange s ∧ ConfigInRange s

/-- The input contract on one cycle (R10, R104): the vector decodes and its command is in contract. -/
def VectorInContract (variant : Variant) (iv : InputVector) : Prop :=
  ∃ c, decode variant iv = .cycle c ∧ c.wellFormed variant = true

/-- The value an operation writes to `x[0]`, if it writes it (R30). -/
def writesX0 : Instr → Option Byte
  | .reset => some 0
  | .wrdir a | .wrpwm1 a => some a
  | .commita a _ | .commitb a _ => some a
  | .tick | .nop | .wrpwr _ | .wrpwm2 _ => none

/-- The value an operation writes to `x[1]`, if it writes it (R30). -/
def writesX1 : Instr → Option Byte
  | .reset => some 0
  | .wrpwr a | .wrpwm2 a => some a
  | .commita _ b | .commitb _ b => some b
  | .tick | .nop | .wrdir _ | .wrpwm1 _ => none

/-- A run of operations is safe: the model gives every one of them a meaning. -/
def SafeRun (ops : List Instr) (s : State) : Prop := ∃ t, runOps ops s = .next t

/-- Where the host's loop can stand in a build of its variant (R99, R100). -/
def PhaseFits : Variant → Phase → Prop
  | .A, .direction | .A, .power _ | .A, .issuing _ _ | .A, .pause => True
  | .A, .pair => False
  | .B, .pair | .B, .issuing _ _ | .B, .pause => True
  | .B, .direction | .B, .power _ => False

/-- The host holds only in-contract commands of its variant and stands where its variant's loop can stand (R104). -/
structure ChannelInContract (c : Channel) : Prop where
  phase : PhaseFits c.variant c.phase
  queue : ∀ i ∈ c.queue, laneOf i = .command ∧ i.wellFormed c.variant = true

/-- The system's invariant: block and host are of one variant, the block is in range and refuses what is out of
contract, and the host is in contract. -/
structure SystemInContract (S : System) : Prop where
  variant : S.channel.variant = S.block.build.variant
  policy  : S.block.build.policy = .refuse
  block   : InRange S.block
  channel : ChannelInContract S.channel

/-- The premise on the timer (R43, R120): ticks never stop. -/
def TicksRecur (env : Nat → InputVector) : Prop :=
  ∀ n, ∃ m, n ≤ m ∧ tickBit (env m) = true ∧ rstBit (env m) = false

end Sys2Proof
end

