-- ==== Sys2Proof/Certificates/Slice0/Obligations.lean ====
section
/-! DEFINITION. The statements about the model, one definition each. Every docstring names the rule of the spec it
formalises; a clause that rests on a choice of the model says so. -/

open Sys2Proof Sys2Proof.Machine

/-! ### Reset -/

/-- R125: `RESET` completes and writes all five elements, whatever the state before. -/
def Obligations.ResetWritesEveryElement : Prop :=
  ∀ s : State, exec .reset s = .next { s with cnt := 0, x0 := 0, x1 := 0, out1 := .low, out2 := .low }

/-- R23, with R24 and R25 (the spec's decisions D5 and D6): the state after reset, in both variants. -/
def Obligations.StateAfterResetHoldsTheResetValues : Prop :=
  ∀ b : Build, (State.resetOf b).x0 = 0 ∧ (State.resetOf b).x1 = 0 ∧ (State.resetOf b).cnt = 0 ∧
    (State.resetOf b).out1 = .low ∧ (State.resetOf b).out2 = .low ∧ (State.resetOf b).build = b ∧
    State.reset = State.resetOf State.reset.build

/-- R17, R23, R27: the range invariant holds after reset, in every build and so in `State.reset`. That the build
`State.reset` shows has the policy `refuse` is the model's own choice (DESIGN CHOICE, log 4), and no clause of those
rules. -/
def Obligations.ResetStateIsInRange : Prop :=
  InRange State.reset ∧ State.reset.build.policy = .refuse ∧ ∀ b : Build, InRange (State.resetOf b)

/-- R126: in a cycle with `rst = 1` no tick and no command is performed, whatever the other lanes hold. -/
def Obligations.ResetDominatesTheCycle : Prop :=
  ∀ (s : State) (iv : InputVector) (rest : List InputVector), s.inputs = iv :: rest → iv.getLsbD 20 = true →
    step s = .next { s with cnt := 0, x0 := 0, x1 := 0, out1 := .low, out2 := .low, inputs := rest }

/-! ### The operation TICK -/

/-- R57 to R61: a tick from any counter value does the counter step, the duty derivation (both values of `DIR_SWAP`) and
the comparator step, and writes nothing else. The premise is only that the thresholds derived are at
most 100: R74 gives a tick with a greater one no meaning. In variant A every direction but 1 is `otherwise` (R58), the
values 2 to 255 too. -/
def Obligations.TickDoesItsThreeSteps : Prop :=
  ∀ (s : State) (c d1 d2 : Byte), d1.toNat ≤ 100 → d2.toNat ≤ 100 →
    c = (if s.cnt.toNat + 1 > 100 then 0 else BitVec.ofNat 8 (s.cnt.toNat + 1)) →
    (d1, d2) =
      (match s.build.variant, s.build.dirSwap with
        | .A, false => if s.x0 = 1 then (s.x1, 0) else (0, s.x1)
        | .A, true => if s.x0 = 1 then (0, s.x1) else (s.x1, 0)
        | .B, _ => (s.x0, s.x1)) →
    exec .tick s = .next
      { s with
        cnt := c
        out1 := if c.toNat > d1.toNat then .low else .high
        out2 := if c.toNat > d2.toNat then .low else .high }

/-- R62: a tick completes from every state at all, advances the counter, and writes only `cnt` and the two latches. In
a state whose threshold exceeds 100 the latch is a free value of the model (log 6). -/
def Obligations.TickAlwaysCompletes : Prop :=
  ∀ s : State, ∃ o1 o2 : Level, exec .tick s = .next
    { s with
      cnt := if s.cnt.toNat + 1 > 100 then 0 else BitVec.ofNat 8 (s.cnt.toNat + 1)
      out1 := o1
      out2 := o2 }

/-- R66: immediately after any tick a pin is high iff the counter is at or below its channel's threshold; for threshold
0 only at counter 0, for threshold 100 always. -/
def Obligations.PinIsHighIffCounterAtOrBelowThreshold : Prop :=
  ∀ s t : State, exec .tick s = .next t →
    (s.duties.1.toNat ≤ 100 → (t.out1 = .high ↔ t.cnt.toNat ≤ s.duties.1.toNat)) ∧
    (s.duties.2.toNat ≤ 100 → (t.out2 = .high ↔ t.cnt.toNat ≤ s.duties.2.toNat)) ∧
    (s.duties.1 = 0 → (t.out1 = .high ↔ t.cnt = 0)) ∧ (s.duties.2 = 0 → (t.out2 = .high ↔ t.cnt = 0)) ∧
    (s.duties.1 = 100 → t.out1 = .high) ∧ (s.duties.2 = 100 → t.out2 = .high)

/-- R67: in variant A at most one of the two thresholds is nonzero, and it equals `power`, for either value of
`DIR_SWAP`. -/
def Obligations.AtMostOneThresholdIsNonzeroInVariantA : Prop :=
  ∀ s : State, s.build.variant = .A → s.x0.toNat ≤ 1 → s.x1.toNat ≤ 100 →
    (s.duties.1 ≠ 0 → s.duties.1 = s.x1 ∧ s.duties.2 = 0) ∧
    (s.duties.2 ≠ 0 → s.duties.2 = s.x1 ∧ s.duties.1 = 0) ∧
    (s.x1 = 0 → s.duties = (0, 0))

/-- R69: after a tick that leaves the counter at 0 both pins are high, in both variants and for every configuration in
contract. -/
def Obligations.BothPinsAreHighAtPhaseZero : Prop :=
  ∀ s t : State, ConfigInRange s → exec .tick s = .next t → t.cnt = 0 → t.out1 = .high ∧ t.out2 = .high

/-! ### The configuration commands -/

/-- R78: `NOP` completes and changes nothing. -/
def Obligations.NopLeavesTheStateAsItWas : Prop :=
  ∀ s : State, exec .nop s = .next s

/-- R79: `WRDIR a` stores the direction in `x[0]` and changes nothing else. -/
def Obligations.WrdirStoresTheDirection : Prop :=
  ∀ (s : State) (a : Byte), s.build.variant = .A → a.toNat ≤ 1 → exec (.wrdir a) s = .next { s with x0 := a }

/-- R80: `WRPWR a` stores the power in `x[1]` and changes nothing else. -/
def Obligations.WrpwrStoresThePower : Prop :=
  ∀ (s : State) (a : Byte), s.build.variant = .A → a.toNat ≤ 100 → exec (.wrpwr a) s = .next { s with x1 := a }

/-- R81: `COMMITA a, b` stores both in the same step and changes nothing else. -/
def Obligations.CommitaStoresBothAtOnce : Prop :=
  ∀ (s : State) (a b : Byte), s.build.variant = .A → a.toNat ≤ 1 → b.toNat ≤ 100 →
    exec (.commita a b) s = .next { s with x0 := a, x1 := b }

/-- R82: `WRPWM1 a` stores the threshold of channel 1 in `x[0]` and changes nothing else. -/
def Obligations.Wrpwm1StoresTheThresholdOfChannelOne : Prop :=
  ∀ (s : State) (a : Byte), s.build.variant = .B → a.toNat ≤ 100 → exec (.wrpwm1 a) s = .next { s with x0 := a }

/-- R83: `WRPWM2 a` stores the threshold of channel 2 in `x[1]` and changes nothing else. -/
def Obligations.Wrpwm2StoresTheThresholdOfChannelTwo : Prop :=
  ∀ (s : State) (a : Byte), s.build.variant = .B → a.toNat ≤ 100 → exec (.wrpwm2 a) s = .next { s with x1 := a }

/-- R84: `COMMITB a, b` stores both in the same step and changes nothing else. -/
def Obligations.CommitbStoresBothAtOnce : Prop :=
  ∀ (s : State) (a b : Byte), s.build.variant = .B → a.toNat ≤ 100 → b.toNat ≤ 100 →
    exec (.commitb a b) s = .next { s with x0 := a, x1 := b }

/-- R10, R77, U1: under the model's policy `refuse` (log 4) a command with a value above its bound has no meaning. -/
def Obligations.OutOfContractCommandsAreRefused : Prop :=
  ∀ s : State, s.build.policy = .refuse →
    (s.build.variant = .A → ∀ a b : Byte,
      (1 < a.toNat → exec (.wrdir a) s = .refused .outOfContract) ∧
      (100 < a.toNat → exec (.wrpwr a) s = .refused .outOfContract) ∧
      (1 < a.toNat ∨ 100 < b.toNat → exec (.commita a b) s = .refused .outOfContract)) ∧
    (s.build.variant = .B → ∀ a b : Byte,
      (100 < a.toNat → exec (.wrpwm1 a) s = .refused .outOfContract) ∧
      (100 < a.toNat → exec (.wrpwm2 a) s = .refused .outOfContract) ∧
      (100 < a.toNat ∨ 100 < b.toNat → exec (.commitb a b) s = .refused .outOfContract))

/-- R13, R139, U1: under the model's policy `hardware` (log 4) the block does not check the bounds and stores whatever
8-bit value a command carries. -/
def Obligations.HardwareStoresWhateverACommandCarries : Prop :=
  ∀ (s : State) (a b : Byte), s.build.policy = .hardware →
    (s.build.variant = .A →
      exec (.wrdir a) s = .next { s with x0 := a } ∧ exec (.wrpwr a) s = .next { s with x1 := a } ∧
      exec (.commita a b) s = .next { s with x0 := a, x1 := b }) ∧
    (s.build.variant = .B →
      exec (.wrpwm1 a) s = .next { s with x0 := a } ∧ exec (.wrpwm2 a) s = .next { s with x1 := a } ∧
      exec (.commitb a b) s = .next { s with x0 := a, x1 := b })

/-- R49: a build has only its own variant's three mnemonics; the others are refused (log 13). -/
def Obligations.MnemonicsOfTheOtherVariantAreRefused : Prop :=
  ∀ (s : State) (a b : Byte),
    (s.build.variant = .B →
      exec (.wrdir a) s = .refused .otherVariant ∧ exec (.wrpwr a) s = .refused .otherVariant ∧
      exec (.commita a b) s = .refused .otherVariant) ∧
    (s.build.variant = .A →
      exec (.wrpwm1 a) s = .refused .otherVariant ∧ exec (.wrpwm2 a) s = .refused .otherVariant ∧
      exec (.commitb a b) s = .refused .otherVariant)

/-- R68: re-submitting the values the registers hold changes nothing, so every later run and its waveform are as if
the command had not been issued. -/
def Obligations.ResubmittingTheSameValuesChangesNothing : Prop :=
  ∀ (i : Instr) (s : State), laneOf i = .command → i.wellFormed s.build.variant = true →
    (writesX0 i = none ∨ writesX0 i = some s.x0) → (writesX1 i = none ∨ writesX1 i = some s.x1) →
    exec i s = .next s ∧
    ∀ ops : List Instr, runOps (i :: ops) s = runOps ops s ∧ waveform (i :: ops) s = waveform ops s

/-! ### Who may write what -/

/-- R12, R18, R76: no run of commands, however long, writes the counter or a latch, or touches the build or the
environment; a pin keeps its level until the next tick. -/
def Obligations.CommandsLeaveCounterAndPinsAlone : Prop :=
  ∀ (ops : List Instr) (s t : State), (∀ i ∈ ops, laneOf i = .command) → runOps ops s = .next t →
    t.cnt = s.cnt ∧ t.out1 = s.out1 ∧ t.out2 = s.out2 ∧
    t.build = s.build ∧ t.inputs = s.inputs ∧ t.samples = s.samples

/-- R30, R39: after any run a register holds the value of the most recent operation that wrote it, or what it held
before if none did; the next tick derives its thresholds from exactly these. -/
def Obligations.LatestValueWins : Prop :=
  ∀ (ops : List Instr) (s t : State), runOps ops s = .next t →
    t.memRead 0#1 = (ops.reverse.findSome? writesX0).getD (s.memRead 0#1) ∧
    t.memRead 1#1 = (ops.reverse.findSome? writesX1).getD (s.memRead 1#1) ∧
    t.duties = dutyPair s.build ((ops.reverse.findSome? writesX0).getD s.x0)
      ((ops.reverse.findSome? writesX1).getD s.x1)

/-- R118: the host's context holds no read of the block. Two blocks of one build whose registers agree answer a run of
commands alike, whatever their counters and latches, which stay their own. -/
def Obligations.CommandsDoNotReadCounterOrPins : Prop :=
  ∀ (ops : List Instr) (s s' t : State), (∀ i ∈ ops, laneOf i = .command) →
    s'.build = s.build → s'.x0 = s.x0 → s'.x1 = s.x1 → runOps ops s = .next t →
    runOps ops s' = .next { s' with x0 := t.x0, x1 := t.x1 }

/-- D6, R61: a tick does not read the latches. Two runs that differ only in the latches before are in the same state
as soon as one tick has happened. -/
def Obligations.LatchesAreForgottenAtTheFirstTick : Prop :=
  ∀ (ops : List Instr) (s t : State) (o1 o2 : Level), Instr.tick ∈ ops → runOps ops s = .next t →
    runOps ops { s with out1 := o1, out2 := o2 } = .next t

/-! ### One clock cycle -/

/-- R48: the composition of one cycle, with the command lane read field by field (R46, R49) in the two variants. -/
def Obligations.CycleIsResetOrTickThenCommand : Prop :=
  ∀ (s s0 : State) (iv : InputVector) (rest : List InputVector), s.inputs = iv :: rest →
    s0 = { s with inputs := rest } →
    (iv.getLsbD 20 = true → step s = exec .reset s0) ∧
    (iv.getLsbD 20 = false → ∀ (op : OpCode) (a b : Byte) (cmd : Instr),
      op = iv.extractLsb' 16 3 → b = iv.extractLsb' 8 8 → a = iv.extractLsb' 0 8 →
      (op = 0#3 ∧ cmd = .nop ∨
        s.build.variant = .A ∧
          (op = 1#3 ∧ cmd = .wrdir a ∨ op = 2#3 ∧ cmd = .wrpwr a ∨ op = 3#3 ∧ cmd = .commita a b) ∨
        s.build.variant = .B ∧
          (op = 1#3 ∧ cmd = .wrpwm1 a ∨ op = 2#3 ∧ cmd = .wrpwm2 a ∨ op = 3#3 ∧ cmd = .commitb a b)) →
      step s = andThen (if iv.getLsbD 19 = true then exec .tick s0 else .next s0) (exec cmd))

/-- R48, R113: in a cycle with a tick and a commit the tick compares against the old registers and the commit lands. -/
def Obligations.TickReadsTheConfigurationBeforeTheCommand : Prop :=
  ∀ (s t : State) (v0 v1 : Byte) (rest : List InputVector), InRange s →
    s.inputs = inputVector false true 3#3 v1 v0 :: rest →
    v0.toNat ≤ maxLegal s.build.variant 0#1 → v1.toNat ≤ maxLegal s.build.variant 1#1 →
    exec .tick s = .next t →
    step s = .next { t with x0 := v0, x1 := v1, inputs := rest }

/-- R51: the reserved codes are exactly those with `op[2] = 1` in a cycle with `rst = 0`; every other vector decodes.
A model refuses a reserved code; hardware treats it as `NOP`. Two clauses are the model's reading and not the rule's
words: that under the policy `refuse` the whole cycle stops, its tick too, and that under `hardware` the tick lane still
acts (DEDUCED from R48, log 5); the two policies themselves are the model's choice (DESIGN CHOICE, log 4). -/
def Obligations.ReservedCodesAreRefusedOrActAsNop : Prop :=
  (∀ (v : Variant) (iv : InputVector),
    (∃ c, decode v iv = .cycle c) ↔ (iv.getLsbD 20 = true ∨ iv.getLsbD 18 = false)) ∧
  (∀ (s : State) (iv : InputVector) (rest : List InputVector), s.inputs = iv :: rest →
    iv.getLsbD 20 = false → iv.getLsbD 18 = true →
    (s.build.policy = .refuse → step s = .refused .reservedCode) ∧
    (s.build.policy = .hardware →
      step s = if iv.getLsbD 19 = true then exec .tick { s with inputs := rest } else .next { s with inputs := rest }))

/-- A step runs the decoded instruction (R48, R54): with one operation in the cycle the step is `exec` of it on the state
with the sample taken; with a tick and a command it is the tick and then the command. The sample is the next vector
listed, or the free value of the environment when none is listed (log 7). -/
def Obligations.StepRunsTheDecodedOperation : Prop :=
  ∀ s : State,
    (∀ i : Instr, decode s.build.variant s.sampled = .cycle (Cycle.single i) → step s = exec i s.afterSample) ∧
    (∀ c : Instr, decode s.build.variant s.sampled = .cycle (.lanes true c) →
      step s = andThen (exec .tick s.afterSample) (exec c)) ∧
    (∀ (iv : InputVector) (rest : List InputVector), s.inputs = iv :: rest →
      s.sampled = iv ∧ s.afterSample = { s with inputs := rest }) ∧
    (s.inputs = [] →
      s.sampled = Config.portInput s.samples ∧ s.afterSample = { s with samples := s.samples + 1 })

/-- A word of the opcode table presented at the ports is what the next step runs: its decoded operation, on the state
it was presented to (log 8). -/
def Obligations.PresentedWordRunsNext : Prop :=
  ∀ (s : State) (w : Nat) (i : Instr), w < 2 ^ 21 →
    decode s.build.variant (BitVec.ofNat 21 w) = .cycle (Cycle.single i) → step (s.withFetchWord 24 w) = exec i s

/-- R104: a cycle in contract is never refused, under either policy. -/
def Obligations.CyclesInContractComplete : Prop :=
  ∀ s : State, VectorInContract s.build.variant s.sampled → ∃ t, step s = .next t

/-! ### Encoding -/

/-- R49, R54: decoding the canonical encoding of an operation of the variant gives it back with every operand, and so
for a tick and a command in one cycle. -/
def Obligations.DecodeUndoesEncode : Prop :=
  (∀ (v : Variant) (i : Instr), inVariant v i = true → decode v (encode i) = .cycle (Cycle.single i)) ∧
  (∀ (v : Variant) (c : Cycle), c.ofVariant v = true → decode v (encodeCycle c) = .cycle c)

/-- The other direction, on vectors whose unused fields are zero, as the canonical encoding writes them (U3, D9). -/
def Obligations.EncodeUndoesDecodeOnCanonicalVectors : Prop :=
  ∀ (v : Variant) (iv : InputVector) (c : Cycle), decode v iv = .cycle c →
    (iv.getLsbD 20 = true → iv = 0x100000) →
    (iv.getLsbD 20 = false → iv.extractLsb' 16 3 ≠ 3#3 → iv.extractLsb' 8 8 = 0#8) →
    (iv.getLsbD 20 = false → iv.extractLsb' 16 3 = 0#3 → iv.extractLsb' 0 8 = 0#8) →
    c.ofVariant v = true ∧ encodeCycle c = iv

/-- R50: fields a cycle does not use are ignored; any bit pattern may stand there. -/
def Obligations.UnusedFieldsAreIgnored : Prop :=
  ∀ (v : Variant) (iv iv' : InputVector) (op : OpCode), op = iv.extractLsb' 16 3 →
    iv'.getLsbD 20 = iv.getLsbD 20 →
    (iv.getLsbD 20 = false → iv'.getLsbD 19 = iv.getLsbD 19 ∧ iv'.extractLsb' 16 3 = op) →
    (iv.getLsbD 20 = false → op = 1#3 ∨ op = 2#3 ∨ op = 3#3 → iv'.extractLsb' 0 8 = iv.extractLsb' 0 8) →
    (iv.getLsbD 20 = false → op = 3#3 → iv'.extractLsb' 8 8 = iv.extractLsb' 8 8) →
    decode v iv' = decode v iv

/-- R47, R49: a row of the opcode table selects its operation in a cycle exactly when the decoder finds that operation
in it. -/
def Obligations.DecoderAgreesWithTheOpcodeTable : Prop :=
  ∀ (v : Variant) (iv : InputVector) (c : Cycle), decode v iv = .cycle c →
    ∀ r ∈ opcodeTable, r.inBuild v = true → (r.selects iv = true ↔ r ∈ c.operations.map Instr.row)

/-- R47, R49: in a build at most one row of each lane selects a vector, and the reset lane excludes the others. -/
def Obligations.OpcodeRowsOfALaneDoNotOverlap : Prop :=
  ∀ (v : Variant) (iv : InputVector), ∀ r ∈ opcodeTable, ∀ r' ∈ opcodeTable,
    r.inBuild v = true → r'.inBuild v = true → r.selects iv = true → r'.selects iv = true →
    (r.lane = r'.lane ∨ r.lane = .reset) → r = r'

/-- R49, R54: words written out from the spec's encodings decode to the operations they stand for. -/
def Obligations.WrittenOutWordsDecode : Prop :=
  decode .A 0x100000 = .cycle .reset ∧
  decode .A 0x080000 = .cycle (.lanes true .nop) ∧
  decode .A 0x00FFFF = .cycle (.lanes false .nop) ∧
  decode .A 0x010001 = .cycle (.lanes false (.wrdir 1)) ∧
  decode .A 0x020028 = .cycle (.lanes false (.wrpwr 40)) ∧
  decode .A 0x032801 = .cycle (.lanes false (.commita 1 40)) ∧
  decode .B 0x01000A = .cycle (.lanes false (.wrpwm1 10)) ∧
  decode .B 0x02005A = .cycle (.lanes false (.wrpwm2 90)) ∧
  decode .B 0x03461E = .cycle (.lanes false (.commitb 30 70)) ∧
  decode .A 0x0A0028 = .cycle (.lanes true (.wrpwr 40)) ∧
  decode .B 0x0F0000 = .reservedCode 7

/-! ### Invariants and the two treatments of what is out of contract -/

/-- R17, R27, and U1: every step from a state in range ends in range, if the model refuses what is out of contract or
the cycle is in contract; the build is never changed. -/
def Obligations.EveryStepKeepsTheRangeInvariant : Prop :=
  ∀ s t : State, InRange s → (s.build.policy = .refuse ∨ VectorInContract s.build.variant s.sampled) →
    step s = .next t → InRange t ∧ t.build = s.build

/-- R27: every step keeps the counter in 0..100, whatever the registers hold and under either policy. -/
def Obligations.EveryStepKeepsTheCounterInRange : Prop :=
  ∀ s t : State, CounterInRange s → step s = .next t → CounterInRange t

/-- R3, R8, R11: no step changes the build's static parameters. -/
def Obligations.NoStepChangesTheBuild : Prop :=
  ∀ s t : State, step s = .next t → t.build = s.build

/-- D10, U1, U2: whatever the refusing model does from a state in range, hardware does. The refusing model errs toward
unprovable only. -/
def Obligations.HardwareDoesWhateverTheRefusingModelDoes : Prop :=
  ∀ s t : State, InRange s → s.build.policy = .refuse → step s = .next t →
    step { s with build := { s.build with policy := .hardware } } =
      .next { t with build := { t.build with policy := .hardware } }

/-! ### The waveform -/

/-- R65, R111, R119: over any run without a reset the counter advances by the number of ticks, modulo 101; commands
between the ticks do not matter. -/
def Obligations.CounterCountsTicksModuloTheFrame : Prop :=
  ∀ (ops : List Instr) (s t : State), CounterInRange s → (∀ i ∈ ops, i ≠ .reset) → runOps ops s = .next t →
    t.cnt.toNat = (s.cnt.toNat + ops.count .tick) % 101

/-- R65: after 101 consecutive ticks the counter returns to its starting value, whatever commands fall between them,
and over them it takes each value 0 to 100 exactly once. -/
def Obligations.FrameReturnsAndVisitsEveryPhaseOnce : Prop :=
  (∀ (ops : List Instr) (s t : State), CounterInRange s → (∀ i ∈ ops, i ≠ .reset) → ops.count .tick = 101 →
    runOps ops s = .next t → t.cnt = s.cnt) ∧
  (∀ s : State, CounterInRange s → runOps (List.replicate 101 .tick) s = .next (ticks 101 s) ∧
    ∀ c ≤ 100, ∃! k : Nat, k < 101 ∧ (ticks (k + 1) s).cnt.toNat = c)

/-- R70: with a constant configuration a channel with threshold `d` is high after exactly `d + 1` of any 101
consecutive ticks. -/
def Obligations.HighTicksPerFrameAreThresholdPlusOne : Prop :=
  ∀ s : State, InRange s →
    (List.range 101).countP (fun k => (ticks (k + 1) s).out1 == .high) = s.duties.1.toNat + 1 ∧
    (List.range 101).countP (fun k => (ticks (k + 1) s).out2 == .high) = s.duties.2.toNat + 1

/-- R71: in a frame that starts at phase 0 a channel is high up to the phase of its threshold and low after it. -/
def Obligations.FrameIsLeadingEdgeAligned : Prop :=
  ∀ s : State, InRange s → s.cnt = 100 → ∀ k ≤ 100,
    (ticks (k + 1) s).cnt.toNat = k ∧
    ((ticks (k + 1) s).out1 = .high ↔ k ≤ s.duties.1.toNat) ∧
    ((ticks (k + 1) s).out2 = .high ↔ k ≤ s.duties.2.toNat)

/-- R128: the first frame after reset with no command issued, in every build. -/
def Obligations.FirstFrameAfterResetPulsesAtTheLastTick : Prop :=
  ∀ b : Build,
    (∀ n, 1 ≤ n → n ≤ 100 → (ticks n (State.resetOf b)).cnt.toNat = n ∧
      (ticks n (State.resetOf b)).out1 = .low ∧ (ticks n (State.resetOf b)).out2 = .low) ∧
    ((ticks 101 (State.resetOf b)).cnt = 0 ∧
      (ticks 101 (State.resetOf b)).out1 = .high ∧ (ticks 101 (State.resetOf b)).out2 = .high) ∧
    ((ticks 102 (State.resetOf b)).cnt = 1 ∧
      (ticks 102 (State.resetOf b)).out1 = .low ∧ (ticks 102 (State.resetOf b)).out2 = .low)

/-- R131, R134: within 101 ticks of any state in range both pins are high together; there is no fully-off setting. -/
def Obligations.BothPinsRiseWithinAFrame : Prop :=
  ∀ s : State, InRange s → ∃ n, 1 ≤ n ∧ n ≤ 101 ∧
    (ticks n s).cnt = 0 ∧ (ticks n s).out1 = .high ∧ (ticks n s).out2 = .high

/-- R43, R120, R131: if ticks never stop, every cycle is in contract and reset is not applied, then both pins are high
together again and again, whatever the commands and however the ticks fall. -/
def Obligations.PhaseZeroRecursWhileTicksRecur : Prop :=
  ∀ (env : Nat → InputVector) (s : State), InRange s → TicksRecur env →
    (∀ k, VectorInContract s.build.variant (env k) ∧ rstBit (env k) = false) →
    ∀ n, ∃ m, n < m ∧ ∃ t, clockEdges env m s = .next t ∧ t.cnt = 0 ∧ t.out1 = .high ∧ t.out2 = .high

/-- R133: in variant A a change of direction between two ticks moves the drive from one pin to the other at one edge,
with no dead time, at every phase from 1 up to `power`; shown from direction 1, for both values of `DIR_SWAP`. -/
def Obligations.ReversalHasNoDeadTime : Prop :=
  ∀ s t : State, InRange s → s.build.variant = .A → s.x0 = 1 → s.cnt.toNat + 1 ≤ s.x1.toNat →
    runOps [.wrdir 0, .tick] s = .next t →
    t.cnt.toNat = s.cnt.toNat + 1 ∧
    (s.build.dirSwap = false → t.out1 = .low ∧ t.out2 = .high ∧ s.ticked.out1 = .high ∧ s.ticked.out2 = .low) ∧
    (s.build.dirSwap = true → t.out1 = .high ∧ t.out2 = .low ∧ s.ticked.out1 = .low ∧ s.ticked.out2 = .high)

/-- R34, R86: a tick after a `COMMIT` sees both new values; a tick between the two writes of a split update sees one new
value and one old one, in either order. -/
def Obligations.CommitIsSeenWholeAndSplitUpdateHalf : Prop :=
  ∀ (s : State) (v0 v1 : Byte), v0.toNat ≤ maxLegal s.build.variant 0#1 → v1.toNat ≤ maxLegal s.build.variant 1#1 →
    runOps [commit s.build.variant v0 v1, .tick] s = exec .tick { s with x0 := v0, x1 := v1 } ∧
    (∀ m, exec .tick { s with x0 := v0 } = .next m →
      runOps [wr0 s.build.variant v0, .tick, wr1 s.build.variant v1] s = .next { m with x1 := v1 }) ∧
    (∀ m, exec .tick { s with x1 := v1 } = .next m →
      runOps [wr1 s.build.variant v1, .tick, wr0 s.build.variant v0] s = .next { m with x0 := v0 })

/-! ### The host -/

/-- R93: `READLINE` ends at a terminator, which it does not store, or at 32 characters, and blocks until then. That the
characters after a full line stay in the stream is this function's choice; the agent may drop them (log 17). -/
def Obligations.ReadLineEndsAtTerminatorOrCapacity : Prop :=
  (∀ (line rest : List Byte) (term : Byte), line.length < 32 → (∀ ch ∈ line, ch ≠ 0x0A ∧ ch ≠ 0x0D) →
    term = 0x0A ∨ term = 0x0D → readLine (line ++ term :: rest) = some (line, rest)) ∧
  (∀ line rest : List Byte, line.length = 32 → (∀ ch ∈ line, ch ≠ 0x0A ∧ ch ≠ 0x0D) →
    readLine (line ++ rest) = some (line, rest)) ∧
  (∀ line : List Byte, line.length < 32 → (∀ ch ∈ line, ch ≠ 0x0A ∧ ch ≠ 0x0D) → readLine line = none)

/-- R94, R96: a string of one to three digits gives its decimal value within the bound and a range error outside it,
whatever `PARSE_LONG` is. -/
def Obligations.ParseReadsUpToThreeDigits : Prop :=
  ∀ (long : List Byte → Nat → Nat → ParseResult) (min max d1 d2 d3 : Nat), d1 < 10 → d2 < 10 → d3 < 10 →
    parse long (some [BitVec.ofNat 8 (48 + d1)]) min max =
      (if min ≤ d1 ∧ d1 ≤ max then .value d1 else .rangeError) ∧
    parse long (some [BitVec.ofNat 8 (48 + d1), BitVec.ofNat 8 (48 + d2)]) min max =
      (if min ≤ 10 * d1 + d2 ∧ 10 * d1 + d2 ≤ max then .value (10 * d1 + d2) else .rangeError) ∧
    parse long (some [BitVec.ofNat 8 (48 + d1), BitVec.ofNat 8 (48 + d2), BitVec.ofNat 8 (48 + d3)]) min max =
      (if min ≤ 100 * d1 + 10 * d2 + d3 ∧ 100 * d1 + 10 * d2 + d3 ≤ max
        then .value (100 * d1 + 10 * d2 + d3) else .rangeError)

/-- R95: the empty string, the null string, and any string with a non-digit are format errors, whatever their digits
would amount to. -/
def Obligations.ParseRejectsNonDigitsFirst : Prop :=
  ∀ (long : List Byte → Nat → Nat → ParseResult) (min max : Nat),
    parse long none min max = .formatError ∧ parse long (some []) min max = .formatError ∧
    ∀ s : List Byte, (∃ ch ∈ s, ch.toNat < 48 ∨ 57 < ch.toNat) → parse long (some s) min max = .formatError

/-- R98: on a digit string of four or more characters the result is an integer within the bound or one of the two
errors, whatever `PARSE_LONG` is; with the exact reading it is the decimal value or a range error. -/
def Obligations.ParseOfLongStringsStaysWithinTheBound : Prop :=
  ∀ (long : List Byte → Nat → Nat → ParseResult) (s : List Byte) (min max : Nat), 4 ≤ s.length →
    (∀ ch ∈ s, 48 ≤ ch.toNat ∧ ch.toNat ≤ 57) →
    (parse long (some s) min max = .formatError ∨ parse long (some s) min max = .rangeError ∨
      ∃ v, min ≤ v ∧ v ≤ max ∧ parse long (some s) min max = .value v) ∧
    parse parseLongExact (some s) min max =
      (if min ≤ decimal s ∧ decimal s ≤ max then .value (decimal s) else .rangeError)

/-- R99, R100, R101: the host commits only if every value of the update validates. `VALIDATE_COMMIT_A` commits exactly
when the direction line parses in [0, 1] and the power line in [0, 100]. `VALIDATE_COMMIT_B` on two tokens separated by
a single space commits exactly when both parse in [0, 100]; on a line with no space it never commits, and reports a
format error when the one token is a value or is not a number. -/
def Obligations.HostCommitsOnlyIfEveryValueValidates : Prop :=
  (∀ (long : List Byte → Nat → Nat → ParseResult) (dLine pLine : List Byte) (d p : Nat),
    verdictA long dLine pLine = .commit d p ↔
      parse long (some dLine) 0 1 = .value d ∧ parse long (some pLine) 0 100 = .value p) ∧
  (∀ (long : List Byte → Nat → Nat → ParseResult) (t1 t2 : List Byte) (p q : Nat), t1 ≠ [] → t2 ≠ [] →
    (∀ ch ∈ t1 ++ t2, ch ≠ 0x20) →
    (verdictB long (t1 ++ 0x20 :: t2) = .commit p q ↔
      parse long (some t1) 0 100 = .value p ∧ parse long (some t2) 0 100 = .value q)) ∧
  (∀ (long : List Byte → Nat → Nat → ParseResult) (t : List Byte), (∀ ch ∈ t, ch ≠ 0x20) →
    (∃ d, verdictB long t = .reject d) ∧
    (parse long (some t) 0 100 ≠ .rangeError → verdictB long t = .reject .format))

/-- R103: after a failure the host issues nothing new, reports it, and is at the top of its loop; the diagnostic is a
format error if no value is out of range and a range error if no value is malformed. -/
def Obligations.FailedValidationIssuesNothing : Prop :=
  (∀ (c : Channel) (d : Diagnostic), (c.conclude (.reject d)).queue = c.queue ∧
    (c.conclude (.reject d)).report = some (.failed d) ∧ (c.conclude (.reject d)).phase = topPhase c.variant) ∧
  (∀ p q : ParseResult, (p = .formatError ∨ q = .formatError) → p ≠ .rangeError → q ≠ .rangeError →
    judge p q = .reject .format) ∧
  (∀ p q : ParseResult, (p = .rangeError ∨ q = .rangeError) → p ≠ .formatError → q ≠ .formatError →
    judge p q = .reject .range)

/-- R104: the host's guarantee. Whatever characters arrive and whatever the free choices of its open points are, every
command it holds is in contract and of its variant. -/
def Obligations.HostOnlyEverHoldsCommandsInContract : Prop :=
  ∀ c : Channel, ChannelInContract c →
    ChannelInContract c.move ∧ (∀ ch : Byte, ChannelInContract (c.receive ch)) ∧
    ∀ issue : Bool, ChannelInContract (c.afterCycle issue)

/-! ### Block and host together -/

/-- R104, R127: block and host right after start-up meet the system's invariant, in every build that refuses what is
out of contract, for both values of `COMMIT_STYLE`. With its value for this hardware, `atomic` (R8, R86), the host issues
a pair as one `COMMIT`, whatever `SPLIT_ORDER` is. -/
def Obligations.SystemStartsInContract : Prop :=
  (∀ (b : Build) (style : CommitStyle) (order : SplitOrder), b.policy = .refuse →
    SystemInContract { block := State.resetOf b, channel := Channel.start b.variant style order } ∧
    SystemInContract (System.start b order)) ∧
  (∀ (b : Build) (order : SplitOrder) (v0 v1 : Byte), (System.start b order).channel.style = .atomic ∧
    setPair b.variant (System.start b order).channel.style order v0 v1 = [commit b.variant v0 v1])

/-- R17, R104, R107: the closed system never stops. From a system in contract every event (a character, a move of the
host, a clock edge with or without tick, reset and command) has a next state, again in contract. -/
def Obligations.SystemInContractIsNeverRefused : Prop :=
  ∀ (e : Event) (S : System), SystemInContract S →
    ∃ S', System.step e S = .next S' ∧ SystemInContract S'

/-- R55, R99, R100: once the host has a pair update to issue, issuing its commands, with ticks at any of the cycles, puts
both values in the registers and leaves the host otherwise as it was: it has not read or reported in between. -/
def Obligations.IssuedPairReachesTheRegisters : Prop :=
  ∀ (S S' : System) (v0 v1 : Byte) (es : List Event), SystemInContract S →
    S.channel.queue = setPair S.channel.variant S.channel.style S.channel.order v0 v1 →
    es.length = S.channel.queue.length → (∀ e ∈ es, ∃ tick, e = .cycle false tick true) →
    System.run es S = .next S' →
    S'.block.x0 = v0 ∧ S'.block.x1 = v1 ∧ S'.channel.queue = [] ∧ S'.channel = { S.channel with queue := [] }

/-- R99, R100, R102: what the host does with a pair that validated. It has the commands of `SETA` or `SETB` to issue and
has reported nothing yet; while one is left to issue it makes no other move; then it echoes the accepted values and
pauses. Through the system: after the commands have been issued, with ticks at any of the cycles, and one move of the
host, the values are in the registers and echoed, and the host pauses. That the host makes no other move in between is
the model's choice (log 22). -/
def Obligations.ValidatedPairIsIssuedThenEchoed : Prop :=
  (∀ (c : Channel) (p q : Nat),
    (c.conclude (.commit p q)).queue =
      c.queue ++ setPair c.variant c.style c.order (BitVec.ofNat 8 p) (BitVec.ofNat 8 q) ∧
    (c.conclude (.commit p q)).report = c.report ∧ (c.conclude (.commit p q)).phase = .issuing p q) ∧
  (∀ (c : Channel) (dLine line : List Byte) (p q : Nat),
    (c.phase = .power dLine → verdictA Config.parseLong dLine line = .commit p q →
      c.lineRead line = c.conclude (.commit p q)) ∧
    (c.phase = .pair → verdictB Config.parseLong line = .commit p q → c.lineRead line = c.conclude (.commit p q))) ∧
  (∀ c : Channel, c.queue ≠ [] → c.move = c) ∧
  (∀ (c : Channel) (p q : Nat), c.queue = [] → c.phase = .issuing p q →
    c.move = { c with report := some (.accepted p q), phase := .pause }) ∧
  (∀ (S S' : System) (c : Channel) (p q : Nat) (es : List Event), SystemInContract S →
    S.channel = c.conclude (.commit p q) → c.queue = [] →
    es.length = S.channel.queue.length → (∀ e ∈ es, ∃ tick, e = .cycle false tick true) →
    System.run (es ++ [.host]) S = .next S' →
    S'.block.x0 = BitVec.ofNat 8 p ∧ S'.block.x1 = BitVec.ofNat 8 q ∧ S'.channel.queue = [] ∧
    S'.channel.report = some (.accepted p q) ∧ S'.channel.phase = .pause)
end

