-- ==== Sys2Proof/Laws/Decode.lean ====
section
/-! SUPPORT. The fields of an input vector read back from its concatenation (spec/30_encoding.md R46), and what the
decoder answers on each command code (R49 to R51). -/

namespace Sys2Proof

/-- Every bit of `{rst, tick, op, b, a}`. -/
theorem inputVector_bit (rst tick : Bool) (op : OpCode) (b a : Byte) (i : Nat) :
    (inputVector rst tick op b a).getLsbD i =
      if i < 8 then a.getLsbD i
      else if i - 8 < 8 then b.getLsbD (i - 8)
      else if i - 8 - 8 < 3 then op.getLsbD (i - 8 - 8)
      else if i - 8 - 8 - 3 < 1 then (BitVec.ofBool tick).getLsbD (i - 8 - 8 - 3)
      else (BitVec.ofBool rst).getLsbD (i - 8 - 8 - 3 - 1) := by
  have h : (inputVector rst tick op b a).getLsbD i =
      (BitVec.ofBool rst ++ BitVec.ofBool tick ++ op ++ b ++ a : BitVec (1 + 1 + 3 + 8 + 8)).getLsbD i := rfl
  rw [h]
  simp only [BitVec.getLsbD_append]

section fields
variable (rst tick : Bool) (op : OpCode) (b a : Byte)

@[simp] theorem rstBit_inputVector : rstBit (inputVector rst tick op b a) = rst := by
  rw [rstBit, inputVector_bit]; simp

@[simp] theorem tickBit_inputVector : tickBit (inputVector rst tick op b a) = tick := by
  rw [tickBit, inputVector_bit]; simp

@[simp] theorem opField_inputVector : opField (inputVector rst tick op b a) = op := by
  apply BitVec.eq_of_getLsbD_eq
  intro i hi
  simp [opField, inputVector_bit, show ¬ (16 + i < 8) by omega, show ¬ (16 + i - 8 < 8) by omega, hi,
    show 16 + i - 8 - 8 = i by omega]

@[simp] theorem bField_inputVector : bField (inputVector rst tick op b a) = b := by
  apply BitVec.eq_of_getLsbD_eq
  intro i hi
  simp [bField, inputVector_bit, hi]

@[simp] theorem aField_inputVector : aField (inputVector rst tick op b a) = a := by
  apply BitVec.eq_of_getLsbD_eq
  intro i hi
  simp [aField, inputVector_bit, hi]

end fields

section commandCodes
variable (v : Variant) (b a : Byte)
@[simp] theorem decodeCommand_nop : decodeCommand v 0#3 b a = some .nop := rfl
@[simp] theorem decodeCommand_wr0 : decodeCommand v 1#3 b a = some (wr0 v a) := rfl
@[simp] theorem decodeCommand_wr1 : decodeCommand v 2#3 b a = some (wr1 v a) := rfl
@[simp] theorem decodeCommand_commit : decodeCommand v 3#3 b a = some (commit v a b) := rfl
end commandCodes

/-- Everything the command lane can decode to. -/
theorem decodeCommand_eq_some_iff (v : Variant) (op : OpCode) (b a : Byte) (c : Instr) :
    decodeCommand v op b a = some c ↔
      (op = 0#3 ∧ c = .nop) ∨ (op = 1#3 ∧ c = wr0 v a) ∨ (op = 2#3 ∧ c = wr1 v a) ∨ (op = 3#3 ∧ c = commit v a b) := by
  unfold decodeCommand
  split_ifs with h0 h1 h2 h3
  · subst h0; simp [eq_comm (b := c)]
  · subst h1; simp [eq_comm (b := c)]
  · subst h2; simp [eq_comm (b := c)]
  · subst h3; simp [eq_comm (b := c)]
  · simpa using ⟨fun h => absurd h h0, fun h => absurd h h1, fun h => absurd h h2, fun h => absurd h h3⟩

/-- The decoder on a vector with `rst = 1` (R126). -/
theorem decode_of_rst {v : Variant} {iv : InputVector} (h : rstBit iv = true) : decode v iv = .cycle .reset := by
  simp [decode, h]

/-- The decoder on a vector with `rst = 0` (R48). -/
theorem decode_of_not_rst {v : Variant} {iv : InputVector} (h : rstBit iv = false) :
    decode v iv =
      match decodeCommand v (opField iv) (bField iv) (aField iv) with
      | some c => .cycle (.lanes (tickBit iv) c)
      | none => .reservedCode (opField iv) :=
  if_neg (by simp [h])

end Sys2Proof
end

