-- ==== Sys2Proof/Laws/State.lean ====
section
/-! SUPPORT. One lemma per field per update of State, so that no proof unfolds a record update. -/

namespace Sys2Proof.Machine

section latch
variable (s : State) (c : Byte) (o1 o2 : Level)
@[simp] theorem State.latch_cnt : (s.latch c o1 o2).cnt = c := rfl
@[simp] theorem State.latch_x0 : (s.latch c o1 o2).x0 = s.x0 := rfl
@[simp] theorem State.latch_x1 : (s.latch c o1 o2).x1 = s.x1 := rfl
@[simp] theorem State.latch_out1 : (s.latch c o1 o2).out1 = o1 := rfl
@[simp] theorem State.latch_out2 : (s.latch c o1 o2).out2 = o2 := rfl
@[simp] theorem State.latch_build : (s.latch c o1 o2).build = s.build := rfl
@[simp] theorem State.latch_inputs : (s.latch c o1 o2).inputs = s.inputs := rfl
@[simp] theorem State.latch_samples : (s.latch c o1 o2).samples = s.samples := rfl
end latch

section memWritePair
variable (s : State) (a b : Byte)
@[simp] theorem State.memWritePair_cnt : (s.memWritePair a b).cnt = s.cnt := rfl
@[simp] theorem State.memWritePair_x0 : (s.memWritePair a b).x0 = a := rfl
@[simp] theorem State.memWritePair_x1 : (s.memWritePair a b).x1 = b := rfl
@[simp] theorem State.memWritePair_out1 : (s.memWritePair a b).out1 = s.out1 := rfl
@[simp] theorem State.memWritePair_out2 : (s.memWritePair a b).out2 = s.out2 := rfl
@[simp] theorem State.memWritePair_build : (s.memWritePair a b).build = s.build := rfl
@[simp] theorem State.memWritePair_inputs : (s.memWritePair a b).inputs = s.inputs := rfl
@[simp] theorem State.memWritePair_samples : (s.memWritePair a b).samples = s.samples := rfl
end memWritePair

section memWrite
variable (s : State) (i : RegIndex) (v : Byte)
@[simp] theorem State.memWrite_cnt : (s.memWrite i v).cnt = s.cnt := by unfold State.memWrite; split <;> rfl
@[simp] theorem State.memWrite_out1 : (s.memWrite i v).out1 = s.out1 := by unfold State.memWrite; split <;> rfl
@[simp] theorem State.memWrite_out2 : (s.memWrite i v).out2 = s.out2 := by unfold State.memWrite; split <;> rfl
@[simp] theorem State.memWrite_build : (s.memWrite i v).build = s.build := by unfold State.memWrite; split <;> rfl
@[simp] theorem State.memWrite_inputs : (s.memWrite i v).inputs = s.inputs := by unfold State.memWrite; split <;> rfl
@[simp] theorem State.memWrite_samples : (s.memWrite i v).samples = s.samples := by unfold State.memWrite; split <;> rfl
@[simp] theorem State.memWrite_zero : s.memWrite 0#1 v = { s with x0 := v } := rfl
@[simp] theorem State.memWrite_one : s.memWrite 1#1 v = { s with x1 := v } := rfl
@[simp] theorem State.memRead_zero : s.memRead 0#1 = s.x0 := rfl
@[simp] theorem State.memRead_one : s.memRead 1#1 = s.x1 := rfl
/-- A read after a write to the same register gives the value written (R85). -/
@[simp] theorem State.memRead_memWrite_self : (s.memWrite i v).memRead i = v := by
  unfold State.memWrite State.memRead; split <;> rfl
/-- A write leaves the other register alone (R35). -/
theorem State.memRead_memWrite_other (j : RegIndex) (h : j ≠ i) : (s.memWrite i v).memRead j = s.memRead j := by
  by_cases hi : i = 0#1 <;> by_cases hj : j = 0#1 <;> simp_all [State.memWrite, State.memRead]
  exact absurd (by bv_omega) h
end memWrite

section cleared
variable (s : State)
@[simp] theorem State.cleared_cnt : s.cleared.cnt = 0 := rfl
@[simp] theorem State.cleared_x0 : s.cleared.x0 = 0 := rfl
@[simp] theorem State.cleared_x1 : s.cleared.x1 = 0 := rfl
@[simp] theorem State.cleared_out1 : s.cleared.out1 = .low := rfl
@[simp] theorem State.cleared_out2 : s.cleared.out2 = .low := rfl
@[simp] theorem State.cleared_build : s.cleared.build = s.build := rfl
@[simp] theorem State.cleared_inputs : s.cleared.inputs = s.inputs := rfl
@[simp] theorem State.cleared_samples : s.cleared.samples = s.samples := rfl
end cleared

section ports
variable (s : State) (iv : InputVector)
@[simp] theorem State.present_cnt : (s.present iv).cnt = s.cnt := rfl
@[simp] theorem State.present_x0 : (s.present iv).x0 = s.x0 := rfl
@[simp] theorem State.present_x1 : (s.present iv).x1 = s.x1 := rfl
@[simp] theorem State.present_out1 : (s.present iv).out1 = s.out1 := rfl
@[simp] theorem State.present_out2 : (s.present iv).out2 = s.out2 := rfl
@[simp] theorem State.present_build : (s.present iv).build = s.build := rfl
@[simp] theorem State.present_sampled : (s.present iv).sampled = iv := rfl
@[simp] theorem State.present_afterSample : (s.present iv).afterSample = s := rfl
@[simp] theorem State.afterSample_cnt : s.afterSample.cnt = s.cnt := by unfold State.afterSample; split <;> rfl
@[simp] theorem State.afterSample_x0 : s.afterSample.x0 = s.x0 := by unfold State.afterSample; split <;> rfl
@[simp] theorem State.afterSample_x1 : s.afterSample.x1 = s.x1 := by unfold State.afterSample; split <;> rfl
@[simp] theorem State.afterSample_out1 : s.afterSample.out1 = s.out1 := by unfold State.afterSample; split <;> rfl
@[simp] theorem State.afterSample_out2 : s.afterSample.out2 = s.out2 := by unfold State.afterSample; split <;> rfl
@[simp] theorem State.afterSample_build : s.afterSample.build = s.build := by unfold State.afterSample; split <;> rfl
end ports

section ticked
variable (s : State)
@[simp] theorem State.ticked_cnt : s.ticked.cnt = nextCount s.cnt := rfl
@[simp] theorem State.ticked_x0 : s.ticked.x0 = s.x0 := rfl
@[simp] theorem State.ticked_x1 : s.ticked.x1 = s.x1 := rfl
@[simp] theorem State.ticked_out1 :
    s.ticked.out1 = comparator s.build.policy (nextCount s.cnt) s.duties.1 := rfl
@[simp] theorem State.ticked_out2 :
    s.ticked.out2 = comparator s.build.policy (nextCount s.cnt) s.duties.2 := rfl
@[simp] theorem State.ticked_build : s.ticked.build = s.build := rfl
@[simp] theorem State.ticked_inputs : s.ticked.inputs = s.inputs := rfl
@[simp] theorem State.ticked_samples : s.ticked.samples = s.samples := rfl
@[simp] theorem State.ticked_duties : s.ticked.duties = s.duties := rfl
end ticked

end Sys2Proof.Machine
end

