-- ==== Sys2Proof/Laws/Ops.lean ====
section
/-! SUPPORT. What each shared operation and each instruction can do, said once. -/

namespace Sys2Proof.Machine

@[simp] theorem andThen_next (s : State) (f : State → Answer) : andThen (.next s) f = f s := rfl
@[simp] theorem andThen_refused (r : Refusal) (f : State → Answer) : andThen (.refused r) f = .refused r := rfl
@[simp] theorem andThen_fault (r : Fault) (f : State → Answer) : andThen (.fault r) f = .fault r := rfl

/-- A composition answers a next state exactly when both its parts do. -/
theorem andThen_eq_next_iff (o : Answer) (f : State → Answer) (t : State) :
    andThen o f = .next t ↔ ∃ u, o = .next u ∧ f u = .next t := by
  cases o <;> simp [andThen]

/-- When a host command has a meaning, and what it leaves. -/
theorem hostCommand_eq_next_iff (v : Variant) (legal : Bool) (s after t : State) :
    hostCommand v legal s after = .next t ↔
      s.build.variant = v ∧ (legal = true ∨ s.build.policy = .hardware) ∧ after = t := by
  unfold hostCommand
  split
  · simp_all
  · split <;> simp_all

@[simp] theorem exec_reset (s : State) : exec .reset s = .next s.cleared := rfl
@[simp] theorem exec_tick (s : State) : exec .tick s = .next s.ticked := rfl
@[simp] theorem exec_nop (s : State) : exec .nop s = .next s := rfl

/-- Everything a command can do when it answers a next state: the register writes it names, in a build that has it. -/
theorem exec_command_cases {i : Instr} {s t : State} (hl : laneOf i = .command) (h : exec i s = .next t) :
    (inContract i = true ∨ s.build.policy = .hardware) ∧ inVariant s.build.variant i = true ∧
    (t = s ∧ i = .nop ∨
      (∃ a, (i = .wrdir a ∨ i = .wrpwm1 a) ∧ t = { s with x0 := a }) ∨
      (∃ a, (i = .wrpwr a ∨ i = .wrpwm2 a) ∧ t = { s with x1 := a }) ∨
      (∃ a b, (i = .commita a b ∨ i = .commitb a b) ∧ t = { s with x0 := a, x1 := b })) := by
  cases i with
  | reset => simp [laneOf] at hl
  | tick => simp [laneOf] at hl
  | nop => simp at h; simp [inContract, inVariant, h]
  | wrdir a =>
    obtain ⟨h1, h2, h3⟩ := (hostCommand_eq_next_iff ..).mp h
    exact ⟨h2, by simp [inVariant, h1], .inr (.inl ⟨a, .inl rfl, h3.symm⟩)⟩
  | wrpwr a =>
    obtain ⟨h1, h2, h3⟩ := (hostCommand_eq_next_iff ..).mp h
    exact ⟨h2, by simp [inVariant, h1], .inr (.inr (.inl ⟨a, .inl rfl, h3.symm⟩))⟩
  | commita a b =>
    obtain ⟨h1, h2, h3⟩ := (hostCommand_eq_next_iff ..).mp h
    exact ⟨h2, by simp [inVariant, h1], .inr (.inr (.inr ⟨a, b, .inl rfl, h3.symm⟩))⟩
  | wrpwm1 a =>
    obtain ⟨h1, h2, h3⟩ := (hostCommand_eq_next_iff ..).mp h
    exact ⟨h2, by simp [inVariant, h1], .inr (.inl ⟨a, .inr rfl, h3.symm⟩)⟩
  | wrpwm2 a =>
    obtain ⟨h1, h2, h3⟩ := (hostCommand_eq_next_iff ..).mp h
    exact ⟨h2, by simp [inVariant, h1], .inr (.inr (.inl ⟨a, .inr rfl, h3.symm⟩))⟩
  | commitb a b =>
    obtain ⟨h1, h2, h3⟩ := (hostCommand_eq_next_iff ..).mp h
    exact ⟨h2, by simp [inVariant, h1], .inr (.inr (.inr ⟨a, b, .inr rfl, h3.symm⟩))⟩

/-- A command of the build in contract answers a next state under either policy. -/
theorem exec_command_completes {i : Instr} {s : State} (hv : inVariant s.build.variant i = true)
    (hc : inContract i = true) : ∃ t, exec i s = .next t := by
  cases i
  case reset => exact ⟨_, rfl⟩
  case tick => exact ⟨_, rfl⟩
  case nop => exact ⟨_, rfl⟩
  all_goals
    exact ⟨_, (hostCommand_eq_next_iff ..).mpr ⟨by simpa [inVariant] using hv, .inl hc, rfl⟩⟩

/-- No operation touches the build or the environment. -/
theorem exec_frame {i : Instr} {s t : State} (h : exec i s = .next t) :
    t.build = s.build ∧ t.inputs = s.inputs ∧ t.samples = s.samples := by
  cases hl : laneOf i with
  | reset => cases i <;> simp_all [laneOf]; subst h; simp
  | tick => cases i <;> simp_all [laneOf]; subst h; simp
  | command =>
    obtain ⟨-, -, ⟨rfl, -⟩ | ⟨a, -, rfl⟩ | ⟨a, -, rfl⟩ | ⟨a, b, -, rfl⟩⟩ := exec_command_cases hl h <;> simp

@[simp] theorem maxLegal_direction : maxLegal .A 0#1 = 1 := rfl
@[simp] theorem maxLegal_pwm1 : maxLegal .B 0#1 = 100 := rfl
@[simp] theorem maxLegal_one (v : Variant) : maxLegal v 1#1 = 100 := by cases v <;> rfl

/-- A value is legal when it is within its register's bound (R77). -/
@[simp] theorem legalAt_eq_true_iff (v : Variant) (i : RegIndex) (x : Byte) :
    legalAt v i x = true ↔ x.toNat ≤ maxLegal v i := by simp [legalAt]

@[simp] theorem legalAt_eq_false_iff (v : Variant) (i : RegIndex) (x : Byte) :
    legalAt v i x = false ↔ maxLegal v i < x.toNat := by simp [legalAt]

/-- When `WR0` is in contract (R77). -/
theorem wr0_wellFormed_iff (v : Variant) (a : Byte) :
    (wr0 v a).wellFormed v = true ↔ a.toNat ≤ maxLegal v 0#1 := by
  cases v <;> simp [wr0, Instr.wellFormed, inVariant, inContract]

/-- When `WR1` is in contract (R77). -/
theorem wr1_wellFormed_iff (v : Variant) (a : Byte) :
    (wr1 v a).wellFormed v = true ↔ a.toNat ≤ 100 := by
  cases v <;> simp [wr1, Instr.wellFormed, inVariant, inContract]

/-- When `COMMIT` is in contract (R77). -/
theorem commit_wellFormed_iff (v : Variant) (a b : Byte) :
    (commit v a b).wellFormed v = true ↔ a.toNat ≤ maxLegal v 0#1 ∧ b.toNat ≤ 100 := by
  cases v <;> simp [commit, Instr.wellFormed, inVariant, inContract]

/-- `WR0` under its name in the build, in contract (R79, R82). -/
theorem exec_wr0 {s : State} {a : Byte} (h : a.toNat ≤ maxLegal s.build.variant 0#1) :
    exec (wr0 s.build.variant a) s = .next { s with x0 := a } := by
  cases hv : s.build.variant <;> rw [hv] at h <;>
    exact (hostCommand_eq_next_iff ..).mpr ⟨hv, .inl (by simpa using h), rfl⟩

/-- `WR1` under its name in the build, in contract (R80, R83). -/
theorem exec_wr1 {s : State} {a : Byte} (h : a.toNat ≤ maxLegal s.build.variant 1#1) :
    exec (wr1 s.build.variant a) s = .next { s with x1 := a } := by
  cases hv : s.build.variant <;> rw [hv] at h <;>
    exact (hostCommand_eq_next_iff ..).mpr ⟨hv, .inl (by simpa using h), rfl⟩

/-- `COMMIT` under its name in the build, in contract (R81, R84). -/
theorem exec_commit {s : State} {a b : Byte} (ha : a.toNat ≤ maxLegal s.build.variant 0#1)
    (hb : b.toNat ≤ maxLegal s.build.variant 1#1) :
    exec (commit s.build.variant a b) s = .next { s with x0 := a, x1 := b } := by
  cases hv : s.build.variant <;> rw [hv] at ha hb <;>
    exact (hostCommand_eq_next_iff ..).mpr ⟨hv, .inl (by simp_all), rfl⟩

/-- No legal value exceeds 100 (R77). -/
theorem maxLegal_le (v : Variant) (i : RegIndex) : maxLegal v i ≤ 100 := by
  cases v <;> simp [maxLegal]; split <;> simp

/-- The Duty Pair of variant B (R59). -/
theorem dutyPair_B {b : Build} (h : b.variant = .B) (x0 x1 : Byte) : dutyPair b x0 x1 = (x0, x1) := by
  simp [dutyPair, h]

/-- The Duty Pair of variant A: the power on one channel, 0 on the other (R58). -/
theorem dutyPair_A {b : Build} (h : b.variant = .A) (x0 x1 : Byte) :
    dutyPair b x0 x1 = if (x0 = 1#8 ↔ b.dirSwap = false) then (x1, 0#8) else (0#8, x1) := by
  cases hs : b.dirSwap <;> by_cases hx : x0 = 1#8 <;> simp [dutyPair, h, hs, directionMux, hx]

/-- The thresholds of a state, by its two registers. -/
theorem State.duties_eq (s : State) : s.duties = dutyPair s.build s.x0 s.x1 := rfl

/-- Both thresholds are at most 100 when the registers are (R17, R67). -/
theorem dutyPair_le {b : Build} {x0 x1 : Byte} (h0 : x0.toNat ≤ maxLegal b.variant 0#1) (h1 : x1.toNat ≤ 100) :
    (dutyPair b x0 x1).1.toNat ≤ 100 ∧ (dutyPair b x0 x1).2.toNat ≤ 100 := by
  cases hv : b.variant with
  | A => rw [dutyPair_A hv]; split <;> simp [h1]
  | B => rw [hv, maxLegal_pwm1] at h0; rw [dutyPair_B hv]; exact ⟨h0, h1⟩

/-- A comparator on a threshold the contract allows is the unsigned formula (R60). -/
theorem comparator_of_le {p : ContractPolicy} {c d : Byte} (h : d.toNat ≤ 100) :
    comparator p c d = unsignedPin c d := by
  simp [comparator]; omega

/-- A pin is high exactly when the counter is at or below the threshold. -/
theorem unsignedPin_eq_high_iff (c d : Byte) : unsignedPin c d = .high ↔ c.toNat ≤ d.toNat := by
  unfold unsignedPin; split <;> simp <;> omega

/-- The counter step as arithmetic on the range 0..100 (R57). -/
theorem nextCount_toNat_of_le {c : Byte} (h : c.toNat ≤ 100) : (nextCount c).toNat = (c.toNat + 1) % 101 := by
  unfold nextCount
  split
  · simp_all; omega
  · simp_all; omega

/-- The counter step always ends in range (R57, R73). -/
theorem nextCount_toNat_le (c : Byte) : (nextCount c).toNat ≤ 100 := by
  unfold nextCount
  split
  · simp
  · simp_all; omega

end Sys2Proof.Machine
end

