-- ==== Sys2Proof/Laws/Host.lean ====
section
/-! SUPPORT. What the host's operations can answer, said once: a parsed value is within its bound, a verdict that
commits has both values, and a pair update consists of in-contract commands. -/

namespace Sys2Proof.Machine

theorem ranged_eq_value {v min max n : Nat} (h : ranged v min max = .value n) : n = v ∧ min ≤ n ∧ n ≤ max := by
  unfold ranged at h
  split at h
  · cases h; exact ⟨rfl, ‹_›⟩
  · cases h

/-- A value `PARSE` answers is within the caller's bound, whatever `PARSE_LONG` is (R94, R98). -/
theorem parse_eq_value {long : List Byte → Nat → Nat → ParseResult} {s : Option (List Byte)} {min max n : Nat}
    (h : parse long s min max = .value n) : min ≤ n ∧ n ≤ max := by
  unfold parse at h
  split at h
  · cases h
  · cases h
  · split_ifs at h
    · exact (ranged_eq_value h).2
    · unfold boundResult at h
      split at h
      · exact (ranged_eq_value h).2
      · cases h
      · cases h

theorem judge_eq_commit_iff {p q : ParseResult} {m n : Nat} :
    judge p q = .commit m n ↔ p = .value m ∧ q = .value n := by
  cases p <;> cases q <;> simp [judge]

theorem boundVerdict_eq_commit {v : Verdict} {m n : Nat} (h : boundVerdict v = .commit m n) : m ≤ 100 ∧ n ≤ 100 := by
  unfold boundVerdict at h
  split at h
  · split at h <;> simp_all
  · cases h

/-- What `VALIDATE_COMMIT_A` commits is in contract (R99). -/
theorem verdictA_eq_commit {long : List Byte → Nat → Nat → ParseResult} {d p : List Byte} {m n : Nat}
    (h : verdictA long d p = .commit m n) : m ≤ 1 ∧ n ≤ 100 := by
  obtain ⟨hd, hp⟩ := judge_eq_commit_iff.mp h
  exact ⟨(parse_eq_value hd).2, (parse_eq_value hp).2⟩

/-- What `VALIDATE_COMMIT_B` commits is in contract, on irregular lines too (R100, R101). -/
theorem verdictB_eq_commit {long : List Byte → Nat → Nat → ParseResult} {line : List Byte} {m n : Nat}
    (h : verdictB long line = .commit m n) : m ≤ 100 ∧ n ≤ 100 := by
  unfold verdictB at h
  split at h
  · obtain ⟨hp, hq⟩ := judge_eq_commit_iff.mp h
    exact ⟨(parse_eq_value hp).2, (parse_eq_value hq).2⟩
  · split at h
    · exact boundVerdict_eq_commit h
    · obtain ⟨hp, hq⟩ := judge_eq_commit_iff.mp h
      exact ⟨(parse_eq_value hp).2, (parse_eq_value hq).2⟩
  · exact boundVerdict_eq_commit h

/-- A pair update with legal values consists of in-contract commands of its variant (R55, R104). -/
theorem setPair_inContract {v : Variant} {a b : Byte} (ha : a.toNat ≤ maxLegal v 0#1) (hb : b.toNat ≤ 100)
    (style : CommitStyle) (order : SplitOrder) :
    ∀ i ∈ setPair v style order a b, laneOf i = .command ∧ i.wellFormed v = true := by
  have l0 : laneOf (wr0 v a) = .command := by cases v <;> rfl
  have l1 : laneOf (wr1 v b) = .command := by cases v <;> rfl
  have l2 : laneOf (commit v a b) = .command := by cases v <;> rfl
  cases style <;> cases order <;>
    simp [setPair, l0, l1, l2, wr0_wellFormed_iff, wr1_wellFormed_iff, commit_wellFormed_iff, ha, hb]

/-- The atomic style, which is the one for this hardware, issues a pair as one `COMMIT` (R55, R86). -/
@[simp] theorem setPair_atomic (v : Variant) (order : SplitOrder) (a b : Byte) :
    setPair v .atomic order a b = [commit v a b] := rfl

/-- The two terminators (R90, R93). -/
theorem terminatorEnd_eq_none_iff (ch : Byte) : terminatorEnd ch = none ↔ ch ≠ 0x0A ∧ ch ≠ 0x0D := by
  unfold terminatorEnd
  split_ifs <;> simp_all

/-- A character that is no terminator joins the buffer, and ends the line when it fills it (R93). -/
theorem feedLine_of_not_terminator {ch : Byte} (h : ch ≠ 0x0A ∧ ch ≠ 0x0D) (buf : List Byte) :
    feedLine buf ch = if (buf ++ [ch]).length = 32 then .done (buf ++ [ch]) .full else .more (buf ++ [ch]) := by
  rw [feedLine, (terminatorEnd_eq_none_iff ch).mpr h]
  rfl

/-- A terminator ends the line and is not stored (R93). -/
theorem feedLine_of_terminator {ch : Byte} {ending : LineEnd} (h : terminatorEnd ch = some ending) (buf : List Byte) :
    feedLine buf ch = .done buf ending := by
  rw [feedLine, h]

section echo
variable (c : Channel) (p q : Nat)
@[simp] theorem Channel.echo_report : (c.echo p q).report = some (.accepted p q) := rfl
@[simp] theorem Channel.echo_phase : (c.echo p q).phase = .pause := rfl
@[simp] theorem Channel.echo_queue : (c.echo p q).queue = c.queue := rfl
@[simp] theorem Channel.echo_variant : (c.echo p q).variant = c.variant := rfl
end echo

/-- Everything a move of the host can be: waiting while it has commands to issue, the echo when it has issued them, or
reading (R99, R100, R102, R105). -/
theorem Channel.move_cases (c : Channel) :
    (c.queue ≠ [] ∧ c.move = c) ∨
    (c.queue = [] ∧ ∃ p q, c.phase = .issuing p q ∧ c.move = c.echo p q) ∨
    (c.queue = [] ∧ (∀ p q, c.phase ≠ .issuing p q) ∧ c.move = c.readNext) := by
  unfold Channel.move
  cases hq : c.queue with
  | cons i rest => simp
  | nil => cases hp : c.phase <;> simp

end Sys2Proof.Machine
end

