-- ==== Sys2Proof/Laws/PerInstr.lean ====
section
/-! SUPPORT. One fact for every instruction: the canonical encoding carries the match of its row of the opcode table
under the row's mask (spec/30_encoding.md R49, R54), whatever its operands. -/

namespace Sys2Proof.Laws

/-- The command lane's mask keeps `rst` and `op` (R49). -/
theorem and_commandMask (iv : InputVector) :
    iv &&& 0x170000#21 = inputVector (rstBit iv) false (opField iv) 0 0 := by
  apply BitVec.eq_of_getLsbD_eq
  intro i hi
  rw [inputVector_bit]
  interval_cases i <;> simp [rstBit, opField]

namespace CanonicalWord

/-- The row of the instruction selects its canonical word. -/
def Statement (i : Instr) : Prop := i.row.selects (encode i) = true

theorem reset : Statement .reset := by unfold Statement; decide
theorem tick : Statement .tick := by unfold Statement; decide
theorem nop : Statement .nop := by unfold Statement; decide

/-- A command's word under the command mask is its code with zero operands. -/
theorem of_command {i : Instr} (hl : Machine.laneOf i = .command) (hm : i.row.mask = 0x170000#21)
    (hv : i.row.value = inputVector false false i.opCode 0 0) : Statement i := by
  unfold Statement OpcodeRow.selects
  have hr : (Lane.command == Lane.reset) = false := rfl
  rw [hm, hv, encode, and_commandMask, hl, hr]
  simp

theorem wrdir (a : Byte) : Statement (.wrdir a) := of_command rfl rfl (by simp only [Instr.row, Instr.opCode]; decide)
theorem wrpwr (a : Byte) : Statement (.wrpwr a) := of_command rfl rfl (by simp only [Instr.row, Instr.opCode]; decide)
theorem commita (a b : Byte) : Statement (.commita a b) :=
  of_command rfl rfl (by simp only [Instr.row, Instr.opCode]; decide)
theorem wrpwm1 (a : Byte) : Statement (.wrpwm1 a) :=
  of_command rfl rfl (by simp only [Instr.row, Instr.opCode]; decide)
theorem wrpwm2 (a : Byte) : Statement (.wrpwm2 a) :=
  of_command rfl rfl (by simp only [Instr.row, Instr.opCode]; decide)
theorem commitb (a b : Byte) : Statement (.commitb a b) :=
  of_command rfl rfl (by simp only [Instr.row, Instr.opCode]; decide)

end CanonicalWord

end Sys2Proof.Laws
end

