-- ==== Sys2Proof/Laws/Step.lean ====
section
/-! SUPPORT. The clock edge and the step by what is sampled at the ports. -/

namespace Sys2Proof.Machine

/-- A step with a listed input vector samples it and takes it off the list. -/
theorem step_of_inputs {s : State} {iv : InputVector} {rest : List InputVector} (h : s.inputs = iv :: rest) :
    step s = clockEdge iv { s with inputs := rest } := by
  simp [step, State.sampled, State.afterSample, h]

/-- A presented vector is the one the next step runs. -/
@[simp] theorem step_present (s : State) (iv : InputVector) : step (s.present iv) = clockEdge iv s := rfl

@[simp] theorem runCycle_reset (s : State) : runCycle .reset s = .next s.cleared := rfl
@[simp] theorem runCycle_tick (c : Instr) (s : State) : runCycle (.lanes true c) s = exec c s.ticked := rfl
@[simp] theorem runCycle_idle (c : Instr) (s : State) : runCycle (.lanes false c) s = exec c s := rfl

/-- Everything a clock edge can do when it answers a next state. -/
theorem clockEdge_cases {iv : InputVector} {s t : State} (h : clockEdge iv s = .next t) :
    (rstBit iv = true ∧ t = s.cleared) ∨
    (rstBit iv = false ∧ ∃ c, decodeCommand s.build.variant (opField iv) (bField iv) (aField iv) = some c ∧
      exec c (if tickBit iv then s.ticked else s) = .next t) ∨
    (rstBit iv = false ∧ decodeCommand s.build.variant (opField iv) (bField iv) (aField iv) = none ∧
      s.build.policy = .hardware ∧ t = if tickBit iv then s.ticked else s) := by
  unfold clockEdge at h
  cases hr : rstBit iv with
  | true => simp [decode_of_rst hr] at h; simp [h]
  | false =>
    rw [decode_of_not_rst hr] at h
    cases hd : decodeCommand s.build.variant (opField iv) (bField iv) (aField iv) with
    | some c =>
      rw [hd] at h
      refine .inr (.inl ⟨rfl, c, rfl, ?_⟩)
      cases ht : tickBit iv <;> simp [ht] at h ⊢ <;> exact h
    | none =>
      rw [hd] at h
      refine .inr (.inr ⟨rfl, rfl, ?_⟩)
      cases hp : s.build.policy <;> cases ht : tickBit iv <;> simp [reservedCycle, hp, ht] at h ⊢ <;> exact h.symm

end Sys2Proof.Machine
end

