-- ==== Sys2Proof/Laws/Runs.lean ====
section
/-! SUPPORT. Runs of operations and ticks in a row: their equations, what they leave alone, and what an operation
writes to the registers. -/

namespace Sys2Proof.Machine

@[simp] theorem runOps_nil (s : State) : runOps [] s = .next s := rfl

@[simp] theorem runOps_cons (i : Instr) (rest : List Instr) (s : State) :
    runOps (i :: rest) s = andThen (exec i s) (runOps rest) := rfl

/-- A run that answers a next state, taken apart at its first operation. -/
theorem runOps_cons_eq_next_iff (i : Instr) (rest : List Instr) (s t : State) :
    runOps (i :: rest) s = .next t ↔ ∃ u, exec i s = .next u ∧ runOps rest u = .next t :=
  andThen_eq_next_iff _ _ _

/-- A command that answers a next state adds nothing to the waveform (R28). -/
theorem waveform_command {i : Instr} {s t : State} (hl : laneOf i = .command) (h : exec i s = .next t)
    (rest : List Instr) : waveform (i :: rest) s = waveform rest t := by
  simp [waveform, h, hl]

/-- A tick adds the pins it leaves to the waveform (R28). -/
@[simp] theorem waveform_tick (s : State) (rest : List Instr) :
    waveform (.tick :: rest) s = s.ticked.pins :: waveform rest s.ticked := rfl

@[simp] theorem ticks_zero (s : State) : ticks 0 s = s := rfl

@[simp] theorem ticks_succ (n : Nat) (s : State) : ticks (n + 1) s = (ticks n s).ticked := rfl

/-- Ticks in a row leave the registers, the build and so the thresholds alone (R16, R19). -/
theorem ticks_frame (n : Nat) (s : State) :
    (ticks n s).build = s.build ∧ (ticks n s).x0 = s.x0 ∧ (ticks n s).x1 = s.x1 ∧ (ticks n s).duties = s.duties := by
  induction n with
  | zero => simp
  | succ n ih => simp [ih]

/-- The counter after ticks in a row from a counter in range (R57). -/
theorem ticks_cnt (n : Nat) {s : State} (h : s.cnt.toNat ≤ 100) :
    (ticks n s).cnt.toNat = (s.cnt.toNat + n) % 101 := by
  induction n with
  | zero => simp; omega
  | succ n ih => rw [ticks_succ, State.ticked_cnt, nextCount_toNat_of_le (by rw [ih]; omega), ih]; omega

/-- What one operation leaves in the two registers (R30). -/
theorem exec_writes {i : Instr} {s t : State} (h : exec i s = .next t) :
    t.x0 = (writesX0 i).getD s.x0 ∧ t.x1 = (writesX1 i).getD s.x1 := by
  cases hl : laneOf i with
  | reset => cases i <;> simp_all [laneOf]; subst h; simp [writesX0, writesX1]
  | tick => cases i <;> simp_all [laneOf]; subst h; simp [writesX0, writesX1]
  | command =>
    obtain ⟨-, -, ⟨rfl, rfl⟩ | ⟨a, rfl | rfl, rfl⟩ | ⟨a, rfl | rfl, rfl⟩ | ⟨a, b, rfl | rfl, rfl⟩⟩ :=
      exec_command_cases hl h <;> simp [writesX0, writesX1]

end Sys2Proof.Machine
end

