-- ==== Sys2Proof/Tests/Slice0.lean ====
section
/-! SUPPORT. The model's own tests: each constructor's word written out from spec/30_encoding.md R49, the well-formedness
checks, one or two steps per instruction with results from spec/95_test_vectors.md (the vector's id is in the name or the
comment), and for every obligation with hypotheses a witness that meets them all. -/

namespace Sys2Proof.Tests

open Machine

/-- A small state: the block's registers and counter, latches low, nothing listed. -/
def st (v : Variant) (cnt x0 x1 : Byte) : State :=
  { cnt := cnt, x0 := x0, x1 := x1, out1 := .low, out2 := .low,
    build := { variant := v, dirSwap := false, policy := .refuse }, inputs := [], samples := 0 }

/-- The same in a build that does what hardware does out of contract. -/
def hw (v : Variant) (cnt x0 x1 : Byte) : State :=
  { st v cnt x0 x1 with build := { variant := v, dirSwap := false, policy := .hardware } }

/-- The next state an answer holds. -/
def next? : Answer → Option State
  | .next s => some s
  | .fault _ => none
  | .refused _ => none

/-- The refusal an answer holds. -/
def refusal? : Answer → Option Refusal
  | .next _ => none
  | .fault _ => none
  | .refused r => some r

/-! ### Words of the opcode table, bit by bit: rst, tick, op, b, a (R46, R49) -/

theorem test_word_reset : decode .A 0b1_0_000_00000000_00000000 = .cycle .reset := by decide
theorem test_word_reset_ignores_the_rest : decode .B 0b1_1_111_11111111_11111111 = .cycle .reset := by decide
theorem test_word_tick : decode .A 0b0_1_000_00000000_00000000 = .cycle (.lanes true .nop) := by decide
theorem test_word_nop : decode .B 0b0_0_000_11111111_11111111 = .cycle (.lanes false .nop) := by decide
theorem test_word_wrdir : decode .A 0b0_0_001_11111111_00000001 = .cycle (.lanes false (.wrdir 1)) := by decide
theorem test_word_wrpwr : decode .A 0b0_0_010_00000000_00101000 = .cycle (.lanes false (.wrpwr 40)) := by decide
theorem test_word_commita : decode .A 0b0_0_011_00101000_00000001 = .cycle (.lanes false (.commita 1 40)) := by decide
theorem test_word_wrpwm1 : decode .B 0b0_0_001_00000000_00001010 = .cycle (.lanes false (.wrpwm1 10)) := by decide
theorem test_word_wrpwm2 : decode .B 0b0_0_010_00000000_01011010 = .cycle (.lanes false (.wrpwm2 90)) := by decide
theorem test_word_commitb : decode .B 0b0_0_011_01000110_00011110 = .cycle (.lanes false (.commitb 30 70)) := by decide
theorem test_word_tick_with_command : decode .A 0x0A0028 = .cycle (.lanes true (.wrpwr 40)) := by decide
theorem test_word_reserved : decode .A 0b0_0_100_00000000_00000000 = .reservedCode 4 := by decide
/-- R54 gives these encodings. -/
theorem test_encode_r54 : encode .reset = 0x100000 ∧ encode .tick = 0x080000 ∧ encode (.wrpwr 40) = 0x020028 ∧
    encode (.commitb 30 70) = 0x03461E ∧ encodeCycle (.lanes true (.wrpwr 40)) = 0x0A0028 := by decide
theorem test_table_word : decodeTableWord 24 0x010000 = some (.wrdir 0) ∧ decodeTableWord 24 0x080000 = some .tick ∧
    decodeTableWord 24 0x040000 = none ∧ decodeTableWord 24 0x200000 = none := by decide

/-! ### Well-formedness: an ill-formed term for each check -/

theorem test_wellFormed_refuses_other_variant : (Instr.wrpwm1 10).wellFormed .A = false := by decide
/-- K14 to K18: the bounds of R77. -/
theorem test_wellFormed_refuses_out_of_bounds :
    (Instr.wrdir 2).wellFormed .A = false ∧ (Instr.wrpwr 101).wellFormed .A = false ∧
    (Instr.commita 1 200).wellFormed .A = false ∧ (Instr.wrpwm1 255).wellFormed .B = false ∧
    (Instr.wrpwm2 101).wellFormed .B = false ∧ (Instr.commitb 100 101).wellFormed .B = false := by decide
theorem test_wellFormed_accepts_the_bounds :
    (Instr.wrdir 1).wellFormed .A = true ∧ (Instr.commita 0 100).wellFormed .A = true ∧
    (Instr.commitb 100 100).wellFormed .B = true := by decide
theorem test_cycle_refuses_no_command : (Cycle.lanes false .tick).wellFormed .A = false := by decide
theorem test_cycle_refuses_other_variant : (Cycle.lanes true (.wrdir 0)).ofVariant .B = false := by decide

/-! ### Instructions -/

/-- Z1. -/
theorem test_reset_z1 :
    next? (exec .reset { st .B 57 30 70 with out2 := .high }) = some (st .B 0 0 0) := by decide
/-- T6 and T7: high at the threshold, low one above it. -/
theorem test_tick_t6_t7 :
    (next? (exec .tick (st .B 49 50 49))).map (fun t => (t.cnt, t.pins)) = some (50, .high, .low) ∧
    (next? (exec .tick (st .B 50 50 49))).map (fun t => (t.cnt, t.pins)) = some (51, .low, .low) := by decide
/-- T21 and T26 (variant A): the direction chooses the channel; both pins are high at the wrap. -/
theorem test_tick_t21_t26 :
    (next? (exec .tick (st .A 39 1 40))).map (fun t => (t.cnt, t.pins)) = some (40, .high, .low) ∧
    (next? (exec .tick (st .A 100 0 40))).map (fun t => (t.cnt, t.pins)) = some (0, .high, .high) := by decide
/-- The last column of T21: with `DIR_SWAP` the other channel. -/
theorem test_tick_dirSwap_t21 :
    (dutyPair { variant := .A, dirSwap := true, policy := .refuse } 1 40) = (0, 40) := by decide
theorem test_nop_k1 : next? (exec .nop (st .B 7 30 70)) = some (st .B 7 30 70) := by decide
theorem test_wrdir_k2 : next? (exec (.wrdir 1) (st .A 9 0 40)) = some (st .A 9 1 40) := by decide
theorem test_wrdir_k14 : refusal? (exec (.wrdir 2) (st .A 9 0 40)) = some .outOfContract := by decide
theorem test_wrpwr_k5 : next? (exec (.wrpwr 100) (st .A 9 0 7)) = some (st .A 9 0 100) := by decide
theorem test_wrpwr_k15 : refusal? (exec (.wrpwr 101) (st .A 9 0 7)) = some .outOfContract := by decide
theorem test_commita_k6 : next? (exec (.commita 1 40) (st .A 9 0 0)) = some (st .A 9 1 40) := by decide
theorem test_commita_k16 : refusal? (exec (.commita 1 200) (st .A 9 0 0)) = some .outOfContract := by decide
theorem test_wrpwm1_k10 : next? (exec (.wrpwm1 10) (st .B 9 30 70)) = some (st .B 9 10 70) := by decide
theorem test_wrpwm1_hardware : next? (exec (.wrpwm1 255) (hw .B 9 30 70)) = some (hw .B 9 255 70) := by decide
theorem test_wrpwm2_k11 : next? (exec (.wrpwm2 90) (st .B 9 30 70)) = some (st .B 9 30 90) := by decide
theorem test_commitb_k13 : next? (exec (.commitb 0 100) (st .B 9 30 70)) = some (st .B 9 0 100) := by decide
theorem test_commitb_k18 : refusal? (exec (.commitb 100 101) (st .B 9 30 70)) = some .outOfContract := by decide

/-! ### Clock cycles -/

/-- G3, fourth line: the tick compares 11 with the old thresholds, the commit lands in the same cycle. -/
theorem test_cycle_g3_tick_and_commit :
    (next? (step ((st .B 10 10 10).present 0x0B5A5A))).map (fun t => (t.cnt, t.x0, t.x1, t.pins)) =
      some (11, 90, 90, .low, .low) := by decide
/-- G3, sixth line (D-9): reset wins. -/
theorem test_cycle_g3_reset_dominates :
    next? (step ((st .B 12 90 90).present 0x1B6363)) = some (st .B 0 0 0) := by decide
/-- D-11: a model refuses, hardware does the tick only. -/
theorem test_cycle_d11_reserved :
    refusal? (step ((st .B 12 90 90).present 0x0F0000)) = some .reservedCode ∧
    (next? (step ((hw .B 12 90 90).present 0x0F0000))).map (fun t => (t.cnt, t.x0, t.x1)) = some (13, 90, 90) := by
  decide
/-- A word of the table runs as the first instruction after reset. -/
theorem test_first_word_after_reset :
    (next? (step (State.reset.withFetchWord 24 0x032801))).map (fun t => (t.x0, t.x1, t.cnt)) = some (1, 40, 0) := by
  decide
/-- R54 and R55: the text and the vectors of a line. -/
theorem test_trace_lines :
    traceVectors .split .x1First [.setb 80 20, .tickWith (.wrpwm1 9), .op .reset] =
      [0x020014, 0x010050, 0x090009, 0x100000] ∧
    showLine (.seta 1 40) = "SETA 1, 40" := by decide
/-- G1, last lines: the waveform around the wrap in variant A. -/
theorem test_waveform_g1 :
    waveform [.tick, .nop, .tick] (st .A 99 1 40) = [(.low, .low), (.high, .high)] := by decide
/-- R140: the frame at 10 kHz is 10.1 ms. -/
theorem test_frame_time : Config.frameMicros = 10100 ∧ Config.highMicros 0 = 100 := by decide

/-! ### The host -/

/-- P1 to P5, P14 (source §8). -/
theorem test_parse_p1_to_p5 :
    parse parseLongExact (some [0x35, 0x37]) 0 100 = .value 57 ∧
    parse parseLongExact (some []) 0 100 = .formatError ∧
    parse parseLongExact (some [0x31, 0x32, 0x61]) 0 100 = .formatError ∧
    parse parseLongExact (some [0x31, 0x35, 0x30]) 0 100 = .rangeError ∧
    parse parseLongExact (some [0x2D, 0x35]) 0 100 = .formatError ∧
    parse parseLongExact (some [0x32]) 0 1 = .rangeError := by decide
/-- P20, P21: the default of `PARSE_LONG`. -/
theorem test_parse_p20_p21 :
    parse parseLongExact (some [0x31, 0x30, 0x30, 0x30]) 0 100 = .rangeError ∧
    parse parseLongExact (some [0x30, 0x31, 0x30, 0x30]) 0 100 = .value 100 := by decide
/-- L1, L4. -/
theorem test_readLine_l1_l4 :
    readLine [0x34, 0x30, 0x0D] = some ([0x34, 0x30], []) ∧
    readLine (List.replicate 32 0x31) = some (List.replicate 32 0x31, []) := by decide
/-- H1, H2, H6, H8. -/
theorem test_verdictB_h1_h2_h6_h8 :
    verdictB parseLongExact [0x33, 0x30, 0x20, 0x37, 0x30] = .commit 30 70 ∧
    verdictB parseLongExact [0x31, 0x30, 0x31, 0x20, 0x31, 0x30] = .reject .range ∧
    verdictB parseLongExact [0x33, 0x30] = .reject .format ∧
    verdictB parseLongExact [0x33, 0x30, 0x09, 0x37, 0x30] = .reject .format := by decide
/-- H11, H13. -/
theorem test_verdictA_h11_h13 :
    verdictA parseLongExact [0x31] [0x34, 0x30] = .commit 1 40 ∧
    verdictA parseLongExact [0x31] [0x31, 0x30, 0x31] = .reject .range := by decide

/-- H1 and H2 through the agent: the line `30 70` gives one commit, not yet reported (R99), the line `101 10` gives
none. -/
theorem test_channel_h1_h2 :
    let typed : List Byte → Channel := fun s => Channel.move^[s.length]
      { Channel.start .B .atomic .x0First with stream := s }
    ((typed [0x33, 0x30, 0x20, 0x37, 0x30, 0x0A]).queue, (typed [0x33, 0x30, 0x20, 0x37, 0x30, 0x0A]).phase,
      (typed [0x33, 0x30, 0x20, 0x37, 0x30, 0x0A]).report) = ([.commitb 30 70], .issuing 30 70, none) ∧
    ((typed [0x31, 0x30, 0x31, 0x20, 0x31, 0x30, 0x0A]).queue,
      (typed [0x31, 0x30, 0x31, 0x20, 0x31, 0x30, 0x0A]).report) = ([], some (.failed .range)) := by decide

/-- R102: the echo and the pause come after the command was issued, in the host with the style of R8. -/
theorem test_channel_echo :
    let c := { Channel.standard .B .x0First with queue := [.commitb 30 70], phase := .issuing 30 70 }
    c.move = c ∧ ((c.afterCycle true).move.report, (c.afterCycle true).move.phase) =
      (some (.accepted 30 70), .pause) := by decide
/-- N12: the `\n` after a `\r` may be dropped, the one that ends the pause and one that was itself dropped included. -/
theorem test_channel_newline_after_return_may_be_dropped :
    let c := Channel.standard .A .x0First
    (Channel.takeChar { c with phase := .pause } 0x0D).mayDrop 0x0A = true ∧
    (Channel.dropChar { c with after := some .full } 0x0D).mayDrop 0x0A = true ∧
    (Channel.takeChar { c with phase := .pause } 0x0A).mayDrop 0x0A = false := by decide

/-! ### Witnesses: a state and operands that meet all hypotheses of an obligation together -/

theorem witness_ResetDominatesTheCycle :
    ((st .A 3 1 1).present 0x1FFFFF).inputs = [0x1FFFFF] ∧ (0x1FFFFF : InputVector).getLsbD 20 = true := by decide
theorem witness_TickDoesItsThreeSteps :
    (st .A 3 255 100).duties = (0, 100) ∧ (0 : Byte).toNat ≤ 100 ∧ (100 : Byte).toNat ≤ 100 ∧
    (0 : Byte) = (if (st .A 100 1 100).cnt.toNat + 1 > 100 then 0
      else BitVec.ofNat 8 ((st .A 100 1 100).cnt.toNat + 1)) ∧
    (st .A 100 1 100).duties = (100, 0) ∧ (st .B 255 100 100).duties = (100, 100) := by decide
theorem witness_PinIsHighIffCounterAtOrBelowThreshold :
    (∃ t, exec .tick (st .B 100 0 100) = .next t) ∧
    (st .B 100 0 100).duties.1 = 0 ∧ (st .B 100 0 100).duties.2 = 100 ∧
    (st .B 100 100 0).duties.1 = 100 ∧ (st .B 100 100 0).duties.2 = 0 :=
  ⟨⟨_, rfl⟩, by decide⟩
theorem witness_AtMostOneThresholdIsNonzeroInVariantA :
    (st .A 0 1 100).build.variant = .A ∧ (st .A 0 1 100).x0.toNat ≤ 1 ∧ (st .A 0 1 100).x1.toNat ≤ 100 ∧
    (st .A 0 1 100).duties.1 ≠ 0 ∧ (st .A 0 0 100).duties.2 ≠ 0 ∧ (st .A 0 1 0).x1 = 0 := by decide
theorem witness_BothPinsAreHighAtPhaseZero :
    ConfigInRange (st .A 100 0 0) ∧ ∃ t, exec .tick (st .A 100 0 0) = .next t ∧ t.cnt = 0 :=
  ⟨by decide, _, rfl, by decide⟩
theorem witness_WrdirStoresTheDirection : (st .A 0 0 0).build.variant = .A ∧ (1 : Byte).toNat ≤ 1 := by decide
theorem witness_WrpwrStoresThePower : (st .A 0 0 0).build.variant = .A ∧ (100 : Byte).toNat ≤ 100 := by decide
theorem witness_CommitaStoresBothAtOnce :
    (st .A 0 0 0).build.variant = .A ∧ (1 : Byte).toNat ≤ 1 ∧ (100 : Byte).toNat ≤ 100 := by decide
theorem witness_Wrpwm1StoresTheThresholdOfChannelOne :
    (st .B 0 0 0).build.variant = .B ∧ (100 : Byte).toNat ≤ 100 := by decide
theorem witness_Wrpwm2StoresTheThresholdOfChannelTwo :
    (st .B 0 0 0).build.variant = .B ∧ (0 : Byte).toNat ≤ 100 := by decide
theorem witness_CommitbStoresBothAtOnce :
    (st .B 0 0 0).build.variant = .B ∧ (100 : Byte).toNat ≤ 100 ∧ (0 : Byte).toNat ≤ 100 := by decide
theorem witness_OutOfContractCommandsAreRefused :
    (st .A 0 0 0).build.policy = .refuse ∧ (st .A 0 0 0).build.variant = .A ∧ 1 < (2 : Byte).toNat ∧
    100 < (101 : Byte).toNat ∧ (st .B 0 0 0).build.policy = .refuse ∧ (st .B 0 0 0).build.variant = .B := by decide
theorem witness_HardwareStoresWhateverACommandCarries :
    (hw .A 0 0 0).build.policy = .hardware ∧ (hw .A 0 0 0).build.variant = .A ∧
    (hw .B 0 0 0).build.policy = .hardware ∧ (hw .B 0 0 0).build.variant = .B := by decide
theorem witness_MnemonicsOfTheOtherVariantAreRefused :
    (st .B 0 0 0).build.variant = .B ∧ (st .A 0 0 0).build.variant = .A := by decide
theorem witness_ResubmittingTheSameValuesChangesNothing :
    laneOf (.commitb 30 70) = .command ∧ (Instr.commitb 30 70).wellFormed (st .B 5 30 70).build.variant = true ∧
    writesX0 (.commitb 30 70) = some (st .B 5 30 70).x0 ∧ writesX1 (.commitb 30 70) = some (st .B 5 30 70).x1 ∧
    writesX0 (.wrpwm2 70) = none ∧ writesX1 (.wrpwm1 30) = none := by decide
theorem witness_CommandsLeaveCounterAndPinsAlone :
    (∀ i ∈ [Instr.wrdir 1, .nop], laneOf i = .command) ∧ ∃ t, runOps [.wrdir 1, .nop] (st .A 4 0 9) = .next t :=
  ⟨by decide, _, rfl⟩
theorem witness_LatestValueWins : ∃ t, runOps [.wrpwm1 1, .tick, .wrpwm1 2, .reset, .wrpwm2 3] (st .B 4 0 9) = .next t :=
  ⟨_, rfl⟩
theorem witness_CommandsDoNotReadCounterOrPins :
    (∀ i ∈ [Instr.wrdir 1], laneOf i = .command) ∧ (st .A 9 0 5).build = (st .A 4 0 5).build ∧
    (st .A 9 0 5).x0 = (st .A 4 0 5).x0 ∧ (st .A 9 0 5).x1 = (st .A 4 0 5).x1 ∧
    ∃ t, runOps [.wrdir 1] (st .A 4 0 5) = .next t :=
  ⟨by decide, rfl, rfl, rfl, _, rfl⟩
theorem witness_LatchesAreForgottenAtTheFirstTick :
    Instr.tick ∈ [Instr.nop, .tick] ∧ ∃ t, runOps [.nop, .tick] (st .A 4 0 5) = .next t := ⟨by decide, _, rfl⟩
theorem witness_CycleIsResetOrTickThenCommand :
    ((st .A 0 0 0).present 0x100000).inputs = [0x100000] ∧ (0x100000 : InputVector).getLsbD 20 = true ∧
    (0x0A0028 : InputVector).getLsbD 20 = false ∧ (0x0A0028 : InputVector).extractLsb' 16 3 = 2#3 ∧
    (0x0B5A5A : InputVector).extractLsb' 16 3 = 3#3 ∧ (0x010001 : InputVector).extractLsb' 16 3 = 1#3 ∧
    (0x00FFFF : InputVector).extractLsb' 16 3 = 0#3 := by decide
theorem witness_TickReadsTheConfigurationBeforeTheCommand :
    InRange (st .A 100 0 100) ∧ ((st .A 100 0 100).present (inputVector false true 3#3 100 1)).inputs =
      [inputVector false true 3#3 100 1] ∧ (1 : Byte).toNat ≤ maxLegal (st .A 100 0 100).build.variant 0#1 ∧
    (100 : Byte).toNat ≤ maxLegal (st .A 100 0 100).build.variant 1#1 ∧ ∃ t, exec .tick (st .A 100 0 100) = .next t :=
  ⟨by decide, by decide, by decide, by decide, _, rfl⟩
theorem witness_ReservedCodesAreRefusedOrActAsNop :
    ((st .A 0 0 0).present 0x0F0000).inputs = [0x0F0000] ∧ (0x0F0000 : InputVector).getLsbD 20 = false ∧
    (0x0F0000 : InputVector).getLsbD 18 = true ∧ (0x040000 : InputVector).getLsbD 18 = true ∧
    (st .A 0 0 0).build.policy = .refuse ∧ (hw .A 0 0 0).build.policy = .hardware := by decide
theorem witness_StepRunsTheDecodedOperation :
    decode .A ((st .A 0 0 0).present 0x080000).sampled = .cycle (Cycle.single .tick) ∧
    decode .A ((st .A 0 0 0).present 0x0A0028).sampled = .cycle (.lanes true (.wrpwr 40)) ∧
    (st .A 0 0 0).inputs = [] := by decide
theorem witness_PresentedWordRunsNext :
    0x020028 < 2 ^ 21 ∧ decode (st .A 0 0 0).build.variant (BitVec.ofNat 21 0x020028) =
      .cycle (Cycle.single (.wrpwr 40)) := by decide
theorem witness_CyclesInContractComplete :
    VectorInContract .A ((st .A 0 0 0).present 0x032801).sampled := ⟨.lanes false (.commita 1 40), by decide, by decide⟩
theorem witness_DecodeUndoesEncode :
    inVariant .A (.wrdir 255) = true ∧ (Cycle.lanes true (.commitb 255 255)).ofVariant .B = true := by decide
theorem witness_EncodeUndoesDecodeOnCanonicalVectors :
    decode .B 0x0B6400 = .cycle (.lanes true (.commitb 0 100)) ∧ (0x0B6400 : InputVector).getLsbD 20 = false ∧
    (0x0B6400 : InputVector).extractLsb' 16 3 = 3#3 ∧ decode .B 0x100000 = .cycle .reset ∧
    decode .B 0x080000 = .cycle (.lanes true .nop) ∧ (0x080000 : InputVector).extractLsb' 0 8 = 0#8 ∧
    decode .B 0x0100FF = .cycle (.lanes false (.wrpwm1 255)) ∧
    (0x0100FF : InputVector).extractLsb' 8 8 = 0#8 := by decide
theorem witness_UnusedFieldsAreIgnored :
    (0x01FF01 : InputVector).getLsbD 20 = (0x010001 : InputVector).getLsbD 20 ∧
    (0x01FF01 : InputVector).getLsbD 19 = (0x010001 : InputVector).getLsbD 19 ∧
    (0x01FF01 : InputVector).extractLsb' 16 3 = 1#3 ∧ (0x010001 : InputVector).extractLsb' 16 3 = 1#3 ∧
    (0x01FF01 : InputVector).extractLsb' 0 8 = (0x010001 : InputVector).extractLsb' 0 8 ∧
    (0x1FFFFF : InputVector).getLsbD 20 = (0x100000 : InputVector).getLsbD 20 := by decide
theorem witness_DecoderAgreesWithTheOpcodeTable :
    decode .A 0x0A0028 = .cycle (.lanes true (.wrpwr 40)) ∧ (Instr.wrpwr 0).row ∈ opcodeTable ∧
    (Instr.wrpwr 0).row.inBuild .A = true ∧ (Instr.wrpwr 0).row.selects 0x0A0028 = true ∧
    (Instr.wrdir 0).row.selects 0x0A0028 = false := by decide
theorem witness_OpcodeRowsOfALaneDoNotOverlap :
    (Instr.wrpwm1 0).row ∈ opcodeTable ∧ (Instr.wrpwm1 0).row.inBuild .B = true ∧
    (Instr.wrpwm1 0).row.selects 0x01000A = true ∧ (Instr.row .reset).selects 0x1FFFFF = true := by decide
theorem witness_EveryStepKeepsTheRangeInvariant :
    InRange (st .A 100 1 100) ∧ (st .A 100 1 100).build.policy = .refuse ∧
    (∃ t, step ((st .A 100 1 100).present 0x0A0028) = .next t) ∧ InRange (hw .B 100 100 100) ∧
    VectorInContract .B ((hw .B 100 100 100).present 0x0B6464).sampled :=
  ⟨by decide, by decide, ⟨_, rfl⟩, by decide, ⟨.lanes true (.commitb 100 100), by decide, by decide⟩⟩
theorem witness_EveryStepKeepsTheCounterInRange :
    CounterInRange (hw .A 100 200 200) ∧ ∃ t, step ((hw .A 100 200 200).present 0x080000) = .next t :=
  ⟨by decide, _, rfl⟩
theorem witness_NoStepChangesTheBuild : ∃ t, step ((st .A 0 0 0).present 0x100000) = .next t := ⟨_, rfl⟩
theorem witness_HardwareDoesWhateverTheRefusingModelDoes :
    InRange (st .B 100 100 0) ∧ (st .B 100 100 0).build.policy = .refuse ∧
    ∃ t, step ((st .B 100 100 0).present 0x0B6400) = .next t := ⟨by decide, by decide, _, rfl⟩
theorem witness_CounterCountsTicksModuloTheFrame :
    CounterInRange (st .A 100 0 0) ∧ (∀ i ∈ [Instr.tick, .wrdir 1, .tick], i ≠ .reset) ∧
    ∃ t, runOps [.tick, .wrdir 1, .tick] (st .A 100 0 0) = .next t := ⟨by decide, by decide, _, rfl⟩
theorem witness_FrameReturnsAndVisitsEveryPhaseOnce :
    CounterInRange (st .A 0 0 0) ∧ (∀ i ∈ List.replicate 101 Instr.tick, i ≠ .reset) ∧
    (List.replicate 101 Instr.tick).count .tick = 101 ∧
    ∃ t, runOps (List.replicate 101 .tick) (st .A 0 0 0) = .next t :=
  ⟨by decide, by simp, by simp, _, rfl⟩
theorem witness_InRange_for_the_waveform :
    InRange (st .A 100 1 100) ∧ (st .A 100 1 100).cnt = 100 ∧ InRange (st .B 0 0 100) := by decide
theorem witness_PhaseZeroRecursWhileTicksRecur :
    InRange (st .A 5 0 0) ∧ TicksRecur (fun _ => 0x080000) ∧
    ∀ k : Nat, VectorInContract .A ((fun _ : Nat => (0x080000 : InputVector)) k) ∧
      rstBit ((fun _ : Nat => (0x080000 : InputVector)) k) = false :=
  ⟨by decide, fun n => ⟨n, Nat.le_refl n, (by decide : tickBit 0x080000 = true), (by decide : rstBit 0x080000 = false)⟩,
    fun _ => ⟨⟨.lanes true .nop, (by decide : decode .A 0x080000 = .cycle (.lanes true .nop)), by decide⟩,
      (by decide : rstBit 0x080000 = false)⟩⟩
theorem witness_ReversalHasNoDeadTime :
    InRange (st .A 99 1 100) ∧ (st .A 99 1 100).build.variant = .A ∧ (st .A 99 1 100).x0 = 1 ∧
    (st .A 99 1 100).cnt.toNat + 1 ≤ (st .A 99 1 100).x1.toNat ∧ (st .A 99 1 100).build.dirSwap = false ∧
    ∃ t, runOps [.wrdir 0, .tick] (st .A 99 1 100) = .next t :=
  ⟨by decide, by decide, by decide, by decide, by decide, _, rfl⟩
/-- The state of G4 with the other polarity. -/
theorem witness_ReversalHasNoDeadTime_swapped :
    let s := { st .A 20 1 60 with build := { variant := .A, dirSwap := true, policy := .refuse } }
    InRange s ∧ s.x0 = 1 ∧ s.cnt.toNat + 1 ≤ s.x1.toNat ∧ s.build.dirSwap = true ∧
      ∃ t, runOps [.wrdir 0, .tick] s = .next t :=
  ⟨by decide, by decide, by decide, by decide, _, rfl⟩
theorem witness_CommitIsSeenWholeAndSplitUpdateHalf :
    (1 : Byte).toNat ≤ maxLegal (st .A 0 0 0).build.variant 0#1 ∧
    (100 : Byte).toNat ≤ maxLegal (st .A 0 0 0).build.variant 1#1 ∧
    (∃ m, exec .tick { st .A 0 0 0 with x0 := 1 } = .next m) ∧
    (∃ m, exec .tick { st .A 0 0 0 with x1 := 100 } = .next m) := ⟨by decide, by decide, ⟨_, rfl⟩, ⟨_, rfl⟩⟩
theorem witness_ReadLineEndsAtTerminatorOrCapacity :
    (List.replicate 31 (0x31 : Byte)).length < 32 ∧ (List.replicate 32 (0x31 : Byte)).length = 32 ∧
    (∀ ch ∈ List.replicate 32 (0x31 : Byte), ch ≠ 0x0A ∧ ch ≠ 0x0D) ∧
    (∀ ch ∈ List.replicate 31 (0x31 : Byte), ch ≠ 0x0A ∧ ch ≠ 0x0D) := by decide
theorem witness_ParseReadsUpToThreeDigits : (0 : Nat) < 10 ∧ (9 : Nat) < 10 := by decide
theorem witness_ParseRejectsNonDigitsFirst :
    (∃ ch ∈ [(0x2F : Byte)], ch.toNat < 48 ∨ 57 < ch.toNat) ∧
    (∃ ch ∈ [(0x31 : Byte), 0x3A], ch.toNat < 48 ∨ 57 < ch.toNat) := by decide
theorem witness_ParseOfLongStringsStaysWithinTheBound :
    4 ≤ [(0x30 : Byte), 0x39, 0x30, 0x30].length ∧
    ∀ ch ∈ [(0x30 : Byte), 0x39, 0x30, 0x30], 48 ≤ ch.toNat ∧ ch.toNat ≤ 57 := by decide
theorem witness_HostCommitsOnlyIfEveryValueValidates :
    ([0x33, 0x30] : List Byte) ≠ [] ∧ (∀ ch ∈ ([0x33, 0x30] ++ [0x37, 0x30] : List Byte), ch ≠ 0x20) ∧
    parse parseLongExact (some [0x33, 0x30]) 0 100 ≠ .rangeError := by decide
theorem witness_FailedValidationIssuesNothing :
    judge .formatError (.value 3) = .reject .format ∧ judge (.value 3) .rangeError = .reject .range := by decide
theorem witness_HostOnlyEverHoldsCommandsInContract :
    ChannelInContract { Channel.start .A .split .x0First with
      queue := [.wrdir 1, .wrpwr 100], phase := .issuing 1 100 } :=
  ⟨trivial, by decide⟩
theorem witness_SystemStartsInContract :
    ({ variant := .B, dirSwap := true, policy := .refuse } : Build).policy = .refuse := by decide
/-- A system in contract with a pair update to issue: of use for both system obligations. -/
theorem witness_SystemInContractIsNeverRefused :
    SystemInContract { block := st .B 100 100 0, channel := { Channel.start .B .split .x1First with
      queue := [.wrpwm2 20, .wrpwm1 80], phase := .issuing 80 20 } } :=
  ⟨rfl, rfl, by decide, ⟨trivial, by decide⟩⟩
theorem witness_IssuedPairReachesTheRegisters :
    let c := { Channel.start .B .split .x1First with queue := [.wrpwm2 20, .wrpwm1 80], phase := .issuing 80 20 }
    SystemInContract { block := st .B 50 30 70, channel := c } ∧
      c.queue = setPair c.variant c.style c.order 80 20 ∧
      (∀ e ∈ [Event.cycle false true true, .cycle false false true], ∃ tick, e = .cycle false tick true) ∧
      ∃ S', System.run [.cycle false true true, .cycle false false true] { block := st .B 50 30 70, channel := c } =
        .next S' :=
  ⟨⟨rfl, rfl, by decide, ⟨trivial, by decide⟩⟩, by decide, by simp, _, rfl⟩
theorem witness_ValidatedPairIsIssuedThenEchoed :
    let c := { Channel.start .A .split .x0First with phase := .power [0x31] }
    let S : System := { block := st .A 50 0 70, channel := c.conclude (.commit 1 100) }
    let es := [Event.cycle false true true, .cycle false false true]
    SystemInContract S ∧ c.queue = [] ∧ es.length = S.channel.queue.length ∧ S.channel.queue ≠ [] ∧
      (∀ e ∈ es, ∃ tick, e = .cycle false tick true) ∧ ∃ S', System.run (es ++ [.host]) S = .next S' :=
  ⟨⟨rfl, rfl, by decide, ⟨trivial, by decide⟩⟩, rfl, rfl, by decide, by simp, _, rfl⟩
/-- Lines that validate whatever `Config.parseLong` is. -/
theorem witness_ValidatedPairIsIssuedThenEchoed_lines :
    verdictA Config.parseLong [0x31] [0x34, 0x30] = .commit 1 40 ∧
    verdictB Config.parseLong [0x33, 0x30, 0x20, 0x37, 0x30] = .commit 30 70 := by decide

end Sys2Proof.Tests
end

section
/-! PROOFS. The scope of the model (spec/00_scope.md): no step changes the static parameters (R11), an operation has a
meaning exactly in contract (R10), and block and host start within the system's invariant. -/

namespace Sys2Proof.Machine

/-- The tick lane alone leaves the build as it was. -/
theorem tickLane_build (tick : Bool) (s : State) : (if tick then s.ticked else s).build = s.build := by
  cases tick <;> simp

/-- A clock edge that answers a next state leaves the build as it was (R11). -/
theorem clockEdge_build {iv : InputVector} {s t : State} (h : clockEdge iv s = .next t) : t.build = s.build := by
  obtain ⟨-, rfl⟩ | ⟨-, c, -, hc⟩ | ⟨-, -, -, rfl⟩ := clockEdge_cases h
  · exact s.cleared_build
  · obtain ⟨hbuild, -, -⟩ := exec_frame hc
    exact hbuild.trans (tickLane_build _ s)
  · exact tickLane_build _ s

/-- A step that answers a next state leaves the build as it was (R11). -/
theorem step_build {s t : State} (h : step s = .next t) : t.build = s.build :=
  (clockEdge_build h).trans s.afterSample_build

/-- Settles O39: sampling leaves the build alone, and so does whatever a clock edge performs. -/
theorem noStepChangesTheBuild : Obligations.NoStepChangesTheBuild :=
  fun _ _ h => step_build h

/-- A host command of the build with an illegal value, under `policy = refuse` (R77, U1). -/
theorem hostCommand_of_illegal {v : Variant} {legal : Bool} {s after : State} (hv : s.build.variant = v)
    (hp : s.build.policy = .refuse) (hl : legal = false) :
    hostCommand v legal s after = .refused .outOfContract := by
  simp [hostCommand, hv, hp, hl]

/-- The counterpart of `exec_command_completes`: out of contract, the refusing model gives a command of the build no
meaning (R10, U1). -/
theorem exec_of_not_inContract {i : Instr} {s : State} (hp : s.build.policy = .refuse)
    (hv : inVariant s.build.variant i = true) (hc : inContract i = false) :
    exec i s = .refused .outOfContract := by
  cases i
  case reset | tick | nop => simp [inContract] at hc
  all_goals exact hostCommand_of_illegal (by simpa [inVariant] using hv) hp hc

/-- A value above its register's bound, or for a pair one of the two, puts the command out of contract (R77). -/
theorem inContract_eq_false_iff (a b : Byte) :
    (inContract (.wrdir a) = false ↔ 1 < a.toNat) ∧ (inContract (.wrpwr a) = false ↔ 100 < a.toNat) ∧
    (inContract (.commita a b) = false ↔ 1 < a.toNat ∨ 100 < b.toNat) ∧
    (inContract (.wrpwm1 a) = false ↔ 100 < a.toNat) ∧ (inContract (.wrpwm2 a) = false ↔ 100 < a.toNat) ∧
    (inContract (.commitb a b) = false ↔ 100 < a.toNat ∨ 100 < b.toNat) := by
  simp only [inContract, Bool.and_eq_false_iff, legalAt_eq_false_iff, maxLegal_direction, maxLegal_pwm1, maxLegal_one,
    and_self]

/-- Settles O17: each bound is the one that puts its command out of contract. -/
theorem outOfContractCommandsAreRefused : Obligations.OutOfContractCommandsAreRefused := by
  intro s hp
  refine ⟨fun hv a b => ?_, fun hv a b => ?_⟩ <;>
    obtain ⟨hwrdir, hwrpwr, hcommita, hwrpwm1, hwrpwm2, hcommitb⟩ := inContract_eq_false_iff a b
  · have refused (i : Instr) (hi : inVariant .A i = true) := exec_of_not_inContract (i := i) hp (hv ▸ hi)
    exact ⟨fun h => refused _ rfl (hwrdir.mpr h), fun h => refused _ rfl (hwrpwr.mpr h),
      fun h => refused _ rfl (hcommita.mpr h)⟩
  · have refused (i : Instr) (hi : inVariant .B i = true) := exec_of_not_inContract (i := i) hp (hv ▸ hi)
    exact ⟨fun h => refused _ rfl (hwrpwm1.mpr h), fun h => refused _ rfl (hwrpwm2.mpr h),
      fun h => refused _ rfl (hcommitb.mpr h)⟩

/-- A well-formed cycle of the build has a next state, whatever the policy and the state. -/
theorem runCycle_completes {c : Cycle} {s : State} (h : c.wellFormed s.build.variant = true) :
    ∃ t, runCycle c s = .next t := by
  cases c with
  | reset => exact ⟨_, runCycle_reset s⟩
  | lanes tick command =>
    simp only [Cycle.wellFormed, Instr.wellFormed, Bool.and_eq_true] at h
    obtain ⟨-, hv, hc⟩ := h
    cases tick with
    | true => exact exec_command_completes (s := s.ticked) hv hc
    | false => exact exec_command_completes hv hc

/-- A clock edge with a vector in contract has a next state (R10). -/
theorem clockEdge_completes {iv : InputVector} {s : State} (h : VectorInContract s.build.variant iv) :
    ∃ t, clockEdge iv s = .next t := by
  obtain ⟨c, hdecode, hwf⟩ := h
  simpa only [clockEdge, hdecode] using runCycle_completes hwf

/-- Settles O30: the vector sampled is in contract, and so its cycle completes. -/
theorem cyclesInContractComplete : Obligations.CyclesInContractComplete := by
  intro s h
  exact clockEdge_completes (by rwa [State.afterSample_build])

/-- The block right after reset is in range (R17, R23, R27). -/
theorem inRange_resetOf (b : Build) : InRange (State.resetOf b) :=
  ⟨Nat.zero_le _, Nat.zero_le _, Nat.zero_le _⟩

/-- The top of the loop is a place of the variant's loop (R88). -/
theorem phaseFits_topPhase (v : Variant) : PhaseFits v (topPhase v) := by
  cases v <;> trivial

/-- The host at start-up is in contract: at the top of its loop, with nothing to issue (R104). -/
theorem channelInContract_start (v : Variant) (style : CommitStyle) (order : SplitOrder) :
    ChannelInContract (Channel.start v style order) :=
  ⟨phaseFits_topPhase v, fun _ hi => absurd hi List.not_mem_nil⟩

/-- Block and host at start-up meet the system's invariant in every build that refuses (R104, R127). -/
theorem systemInContract_start {b : Build} (hb : b.policy = .refuse) (style : CommitStyle) (order : SplitOrder) :
    SystemInContract { block := State.resetOf b, channel := Channel.start b.variant style order } :=
  ⟨rfl, hb, inRange_resetOf b, channelInContract_start b.variant style order⟩

/-- Settles O57: `System.start` is the start-up with the style `atomic`, which issues a pair as one `COMMIT`. -/
theorem systemStartsInContract : Obligations.SystemStartsInContract :=
  ⟨fun _ style order hb => ⟨systemInContract_start hb style order, systemInContract_start hb Config.commitStyle order⟩,
    fun b order v0 v1 => ⟨rfl, setPair_atomic b.variant order v0 v1⟩⟩

end Sys2Proof.Machine
end

section
/-! PROOFS. The state (spec/10_state.md): its values after reset (R23), what a command may write (R12, R13, R18), the
range invariant of counter and registers (R17, R27), and the invariant of block and host together (R104). -/

namespace Sys2Proof.Machine

/-- Settles O2: each element by its own equation. -/
theorem stateAfterResetHoldsTheResetValues : Obligations.StateAfterResetHoldsTheResetValues :=
  fun _ => ⟨rfl, rfl, rfl, rfl, rfl, rfl, rfl⟩

/-- Settles O3: `State.reset` is the reset state of `Config.shownBuild`. -/
theorem resetStateIsInRange : Obligations.ResetStateIsInRange :=
  ⟨inRange_resetOf Config.shownBuild, rfl, inRange_resetOf⟩

/-! ### Commands -/

/-- Under `policy = hardware` a host command of the build is performed, its values unchecked (R139, U1). -/
theorem hostCommand_of_hardware {v : Variant} {legal : Bool} {s after : State} (hv : s.build.variant = v)
    (hp : s.build.policy = .hardware) : hostCommand v legal s after = .next after :=
  (hostCommand_eq_next_iff ..).mpr ⟨hv, .inr hp, rfl⟩

/-- Settles O18: each of the six is a host command whose state after holds the values it carries. -/
theorem hardwareStoresWhateverACommandCarries : Obligations.HardwareStoresWhateverACommandCarries :=
  fun _ _ _ hp =>
    ⟨fun hv => ⟨hostCommand_of_hardware hv hp, hostCommand_of_hardware hv hp, hostCommand_of_hardware hv hp⟩,
      fun hv => ⟨hostCommand_of_hardware hv hp, hostCommand_of_hardware hv hp, hostCommand_of_hardware hv hp⟩⟩

/-- A command writes neither the counter nor a latch (R12, R18, R76). -/
theorem exec_command_counter_and_latches {i : Instr} {s t : State} (hl : laneOf i = .command)
    (h : exec i s = .next t) : t.cnt = s.cnt ∧ t.out1 = s.out1 ∧ t.out2 = s.out2 := by
  obtain ⟨-, -, ⟨rfl, -⟩ | ⟨a, -, rfl⟩ | ⟨a, -, rfl⟩ | ⟨a, b, -, rfl⟩⟩ := exec_command_cases hl h <;> simp

/-- Settles O21, by induction on the run: each command leaves all six fields alone. -/
theorem commandsLeaveCounterAndPinsAlone : Obligations.CommandsLeaveCounterAndPinsAlone := by
  intro ops
  induction ops with
  | nil => rintro s t - ⟨⟩; simp
  | cons i rest ih =>
    intro s t hops h
    obtain ⟨hi, hrest⟩ := List.forall_mem_cons.mp hops
    obtain ⟨u, hu, ht⟩ := (runOps_cons_eq_next_iff ..).mp h
    obtain ⟨hcnt, hout1, hout2⟩ := exec_command_counter_and_latches hi hu
    obtain ⟨hbuild, hinputs, hsamples⟩ := exec_frame hu
    simpa only [hcnt, hout1, hout2, hbuild, hinputs, hsamples] using ih u t hrest ht

/-! ### The range invariant -/

/-- `RESET` leaves the block in range (R23, R27). -/
theorem inRange_cleared (s : State) : InRange s.cleared :=
  ⟨Nat.zero_le _, Nat.zero_le _, Nat.zero_le _⟩

/-- A tick leaves the counter in range, from any value (R27, R57). -/
theorem counterInRange_ticked (s : State) : CounterInRange s.ticked :=
  nextCount_toNat_le s.cnt

/-- A command keeps the counter in range, since it does not write it (R12). -/
theorem exec_command_counterInRange {i : Instr} {s t : State} (hl : laneOf i = .command) (h : exec i s = .next t)
    (hs : CounterInRange s) : CounterInRange t := by
  obtain ⟨hcnt, -, -⟩ := exec_command_counter_and_latches hl h
  rwa [CounterInRange, hcnt]

/-- Under `policy = refuse` a command that has a meaning is of the build and in contract (R10, R49, R77). -/
theorem wellFormed_of_exec_command {i : Instr} {s t : State} (hl : laneOf i = .command)
    (hp : s.build.policy = .refuse) (h : exec i s = .next t) : i.wellFormed s.build.variant = true := by
  obtain ⟨hcontract, hvariant, -⟩ := exec_command_cases hl h
  simpa [Instr.wellFormed, hvariant, hp] using hcontract

/-- A well-formed operation writes legal values only (R17, R77). -/
theorem writes_legal {v : Variant} {i : Instr} (hi : i.wellFormed v = true) :
    (∀ a, writesX0 i = some a → a.toNat ≤ maxLegal v 0#1) ∧
    (∀ b, writesX1 i = some b → b.toNat ≤ maxLegal v 1#1) := by
  cases i <;> simp_all [Instr.wellFormed, inVariant, inContract, writesX0, writesX1]

/-- A well-formed operation keeps the registers in range (R17). -/
theorem exec_configInRange {i : Instr} {s t : State} (hi : i.wellFormed s.build.variant = true)
    (h : exec i s = .next t) (hs : ConfigInRange s) : ConfigInRange t := by
  obtain ⟨hlegal0, hlegal1⟩ := writes_legal hi
  obtain ⟨hx0, hx1⟩ := exec_writes h
  obtain ⟨hbuild, -, -⟩ := exec_frame h
  rw [ConfigInRange, hx0, hx1, hbuild]
  refine ⟨?_, ?_⟩
  · cases hw : writesX0 i with
    | none => exact hs.1
    | some a => exact hlegal0 a hw
  · cases hw : writesX1 i with
    | none => exact hs.2
    | some b => exact hlegal1 b hw

/-- What the command lane decodes to is a command (R47). -/
theorem laneOf_of_decodeCommand {v : Variant} {op : OpCode} {b a : Byte} {c : Instr}
    (h : decodeCommand v op b a = some c) : laneOf c = .command := by
  obtain ⟨-, rfl⟩ | ⟨-, rfl⟩ | ⟨-, rfl⟩ | ⟨-, rfl⟩ := (decodeCommand_eq_some_iff ..).mp h
  · rfl
  all_goals cases v <;> rfl

/-- A property of states that `RESET` establishes, a tick keeps and the command of the cycle keeps, a clock edge keeps
(R48): the one shape of the proofs that an invariant holds along the clock. -/
theorem clockEdge_keeps {P : State → Prop} {iv : InputVector} {s t : State} (h : clockEdge iv s = .next t) (hs : P s)
    (hreset : P s.cleared) (htick : P s → P s.ticked)
    (hcommand : ∀ (c : Instr) (u : State), rstBit iv = false →
      decodeCommand s.build.variant (opField iv) (bField iv) (aField iv) = some c → u.build = s.build →
      exec c u = .next t → P u → P t) : P t := by
  have hlane : P (if tickBit iv then s.ticked else s) := by
    split
    · exact htick hs
    · exact hs
  obtain ⟨-, rfl⟩ | ⟨hrst, c, hc, ht⟩ | ⟨-, -, -, rfl⟩ := clockEdge_cases h
  · exact hreset
  · exact hcommand c _ hrst hc (tickLane_build _ s) ht hlane
  · exact hlane

/-- A clock edge keeps the counter in range, whatever it performs (R27). -/
theorem clockEdge_counterInRange {iv : InputVector} {s t : State} (h : clockEdge iv s = .next t)
    (hs : CounterInRange s) : CounterInRange t :=
  clockEdge_keeps h hs (inRange_cleared s).1 (fun _ => counterInRange_ticked s)
    fun _ _ _ hc _ ht hu => exec_command_counterInRange (laneOf_of_decodeCommand hc) ht hu

/-- Settles O38: sampling leaves the counter alone, and a clock edge keeps it in range. -/
theorem everyStepKeepsTheCounterInRange : Obligations.EveryStepKeepsTheCounterInRange :=
  fun s _ hs h => clockEdge_counterInRange h (by simpa using hs)

/-- The command of a cycle in contract is well-formed (R10). -/
theorem wellFormed_of_vectorInContract {v : Variant} {iv : InputVector} {c : Instr} (h : VectorInContract v iv)
    (hrst : rstBit iv = false) (hc : decodeCommand v (opField iv) (bField iv) (aField iv) = some c) :
    c.wellFormed v = true := by
  obtain ⟨cycle, hdecode, hwf⟩ := h
  rw [decode_of_not_rst hrst, hc] at hdecode
  obtain rfl := Decoded.cycle.inj hdecode
  simp only [Cycle.wellFormed, Bool.and_eq_true] at hwf
  exact hwf.2

/-- A clock edge keeps counter and registers in range, if the model refuses what is out of contract or the cycle is in
contract: either way its command is well-formed (R17, R27, U1). -/
theorem clockEdge_inRange {iv : InputVector} {s t : State} (h : clockEdge iv s = .next t) (hs : InRange s)
    (hcontract : s.build.policy = .refuse ∨ VectorInContract s.build.variant iv) : InRange t := by
  refine clockEdge_keeps h hs (inRange_cleared s) (fun hs => ⟨counterInRange_ticked s, hs.2⟩) ?_
  intro c u hrst hc hbuild ht hu
  have hl : laneOf c = .command := laneOf_of_decodeCommand hc
  have hwf : c.wellFormed u.build.variant = true := by
    rcases hcontract with hp | hv
    · exact wellFormed_of_exec_command hl (by rw [hbuild, hp]) ht
    · rw [hbuild]
      exact wellFormed_of_vectorInContract hv hrst hc
  exact ⟨exec_command_counterInRange hl ht hu.1, exec_configInRange hwf ht hu.2⟩

/-- Sampling the ports touches neither counter nor registers nor build (R45). -/
theorem inRange_afterSample {s : State} (hs : InRange s) : InRange s.afterSample := by
  simpa only [InRange, CounterInRange, ConfigInRange, State.afterSample_cnt, State.afterSample_x0, State.afterSample_x1,
    State.afterSample_build] using hs

/-- Settles O37: the state sampled from is in range, and the clock edge keeps it so. -/
theorem everyStepKeepsTheRangeInvariant : Obligations.EveryStepKeepsTheRangeInvariant :=
  fun s _ hs hcontract h =>
    ⟨clockEdge_inRange h (inRange_afterSample hs) (by simpa using hcontract), step_build h⟩

/-! ### The host stays in contract -/

section phases
variable (v : Variant) (line : List Byte) (p q : Nat)
@[simp] theorem phaseFits_direction_iff : PhaseFits v .direction ↔ v = .A := by cases v <;> simp [PhaseFits]
@[simp] theorem phaseFits_power_iff : PhaseFits v (.power line) ↔ v = .A := by cases v <;> simp [PhaseFits]
@[simp] theorem phaseFits_pair_iff : PhaseFits v .pair ↔ v = .B := by cases v <;> simp [PhaseFits]
@[simp] theorem phaseFits_issuing : PhaseFits v (.issuing p q) := by cases v <;> trivial
@[simp] theorem phaseFits_pause : PhaseFits v .pause := by cases v <;> trivial
end phases

/-- What the host puts in the command lane is `NOP` or one of the commands it holds (R78). -/
theorem Channel.commandLane_eq_nop_or_mem (c : Channel) (issue : Bool) :
    c.commandLane issue = .nop ∨ c.commandLane issue ∈ c.queue := by
  unfold Channel.commandLane
  cases issue <;> cases c.queue <;> simp

/-- The host is in contract and of the variant `v`. No operation of the host changes its variant, so one rule per
operation gives both. -/
structure HostInContract (v : Variant) (c : Channel) : Prop where
  variant : c.variant = v
  channel : ChannelInContract c

namespace HostInContract

variable {v : Variant} {c : Channel}

/-- Where the host stands fits its variant. -/
theorem phaseFits (h : HostInContract v c) : PhaseFits v c.phase :=
  h.variant ▸ h.channel.phase

/-- Whatever becomes of the buffer, the stream, the report and the free choices, the contract is about variant, queue
and phase only. -/
theorem of_same_queue (h : HostInContract v c) {c' : Channel} (hvariant : c'.variant = c.variant)
    (hqueue : c'.queue = c.queue) (hphase : PhaseFits v c'.phase) : HostInContract v c' where
  variant := hvariant.trans h.variant
  channel :=
    { phase := by rwa [hvariant, h.variant]
      queue := by rw [hvariant, hqueue]; exact h.channel.queue }

/-- A verdict with legal values, or none, leaves the host in contract (R99, R100, R103). -/
theorem conclude (h : HostInContract v c) {w : Verdict}
    (hw : ∀ p q, w = .commit p q → p ≤ maxLegal v 0#1 ∧ q ≤ 100) : HostInContract v (c.conclude w) := by
  cases w with
  | reject d => exact h.of_same_queue rfl rfl (h.variant ▸ phaseFits_topPhase c.variant)
  | commit p q =>
    obtain ⟨hp, hq⟩ := hw p q rfl
    have hp8 : (BitVec.ofNat 8 p).toNat ≤ maxLegal c.variant 0#1 := by
      rw [h.variant]; exact (Nat.mod_le ..).trans hp
    have hq8 : (BitVec.ofNat 8 q).toNat ≤ 100 := (Nat.mod_le ..).trans hq
    exact ⟨h.variant, phaseFits_issuing .., List.forall_mem_append.mpr
      ⟨h.channel.queue, setPair_inContract hp8 hq8 c.style c.order⟩⟩

/-- A whole line leaves the host in contract: the verdicts commit legal values only (R99, R100). -/
theorem lineRead (h : HostInContract v c) (line : List Byte) : HostInContract v (c.lineRead line) := by
  have hfits := h.phaseFits
  unfold Channel.lineRead
  cases hphase : c.phase <;>
    simp only [hphase, phaseFits_direction_iff, phaseFits_power_iff, phaseFits_pair_iff] at hfits
  case direction => exact h.of_same_queue rfl rfl ((phaseFits_power_iff ..).mpr hfits)
  case power directionLine => subst hfits; exact h.conclude fun _ _ => verdictA_eq_commit
  case pair => subst hfits; exact h.conclude fun _ _ => verdictB_eq_commit
  case issuing => exact h
  case pause => exact h

/-- A character read into the line buffer leaves the host in contract (R93). -/
theorem bufferChar (h : HostInContract v c) (ch : Byte) : HostInContract v (c.bufferChar ch) := by
  unfold Channel.bufferChar
  split
  · exact h.of_same_queue rfl rfl h.phaseFits
  · apply lineRead
    exact h.of_same_queue rfl rfl h.phaseFits

/-- A character taken, in the pause too, leaves the host in contract (R93, R102). -/
theorem takeChar (h : HostInContract v c) (ch : Byte) : HostInContract v (c.takeChar ch) := by
  unfold Channel.takeChar
  split
  · split
    · exact h.of_same_queue rfl rfl (h.variant ▸ phaseFits_topPhase c.variant)
    · exact h.of_same_queue rfl rfl h.phaseFits
  · exact h
  all_goals exact h.bufferChar ch

/-- A character dropped leaves the host in contract. -/
theorem dropChar (h : HostInContract v c) (ch : Byte) : HostInContract v (c.dropChar ch) := by
  unfold Channel.dropChar
  split
  · exact h.of_same_queue rfl rfl h.phaseFits
  · exact h

/-- A character consumed leaves the host in contract, whatever the free choice is. -/
theorem consume (h : HostInContract v c) (ch : Byte) : HostInContract v (c.consume ch) := by
  have hchosen : HostInContract v { c with choices := c.choices + 1 } := h.of_same_queue rfl rfl h.phaseFits
  unfold Channel.consume
  split_ifs
  · exact hchosen.dropChar ch
  · exact hchosen.takeChar ch
  · exact h.takeChar ch

/-- Reading leaves the host in contract (R90). -/
theorem readNext (h : HostInContract v c) : HostInContract v c.readNext := by
  unfold Channel.readNext
  split
  · exact h
  · apply consume
    exact h.of_same_queue rfl rfl h.phaseFits

/-- A move of the host leaves it in contract: it waits, echoes or reads (R104). -/
theorem move (h : HostInContract v c) : HostInContract v c.move := by
  obtain ⟨-, hmove⟩ | ⟨-, p, q, -, hmove⟩ | ⟨-, -, hmove⟩ := c.move_cases <;> rw [hmove]
  · exact h
  · exact h.of_same_queue rfl rfl (phaseFits_pause v)
  · exact h.readNext

/-- A character that arrives leaves the host in contract (R90). -/
theorem receive (h : HostInContract v c) (ch : Byte) : HostInContract v (c.receive ch) :=
  h.of_same_queue rfl rfl h.phaseFits

/-- A cycle, with or without an issued command, leaves the host in contract. -/
theorem afterCycle (h : HostInContract v c) (issue : Bool) : HostInContract v (c.afterCycle issue) := by
  cases issue with
  | false => exact h
  | true => exact ⟨h.variant, h.channel.phase, fun i hi => h.channel.queue i (List.mem_of_mem_tail hi)⟩

/-- What the host puts in the command lane is a well-formed command of its variant (R104). -/
theorem commandLane (h : HostInContract v c) (issue : Bool) :
    laneOf (c.commandLane issue) = .command ∧ (c.commandLane issue).wellFormed v = true := by
  obtain hnop | hmem := c.commandLane_eq_nop_or_mem issue
  · rw [hnop]
    exact ⟨rfl, rfl⟩
  · obtain ⟨hl, hwf⟩ := h.channel.queue _ hmem
    exact ⟨hl, h.variant ▸ hwf⟩

end HostInContract

/-! ### Block and host together -/

/-- The command lane's fields of a command of the variant decode to it (R49, R54). -/
theorem decodeCommand_of_fields {v : Variant} {c : Instr} (hl : laneOf c = .command) (hv : inVariant v c = true) :
    decodeCommand v c.opCode c.bOperand c.aOperand = some c := by
  cases c
  case reset | tick => simp [laneOf] at hl
  case nop => rfl
  all_goals
    obtain rfl := eq_of_beq hv
    rfl

/-- A cycle with a well-formed command in the host's lane is in contract, whatever the environment does (R104). -/
theorem vectorInContract_hostVector {v : Variant} {c : Instr} (hl : laneOf c = .command) (hwf : c.wellFormed v = true)
    (rst tick : Bool) : VectorInContract v (hostVector rst tick c) := by
  obtain ⟨hv, -⟩ := Bool.and_eq_true_iff.mp hwf
  cases rst with
  | true => exact ⟨.reset, decode_of_rst (rstBit_inputVector ..), rfl⟩
  | false =>
    refine ⟨.lanes tick c, ?_, by simp [Cycle.wellFormed, hl, hwf]⟩
    rw [hostVector, decode_of_not_rst (rstBit_inputVector ..)]
    simp [decodeCommand_of_fields hl hv]

/-- The system's invariant, with the host's part said of the block's variant. -/
theorem systemInContract_iff (S : System) :
    SystemInContract S ↔
      S.block.build.policy = .refuse ∧ InRange S.block ∧ HostInContract S.block.build.variant S.channel :=
  ⟨fun h => ⟨h.policy, h.block, h.variant, h.channel⟩,
    fun ⟨hpolicy, hblock, hhost⟩ => ⟨hhost.variant, hpolicy, hblock, hhost.channel⟩⟩

/-- An event that touches the host only keeps the system's invariant if it keeps the host's (R89, R92). -/
theorem systemInContract_of_channel {S : System} (hS : SystemInContract S) {c : Channel}
    (hc : HostInContract S.block.build.variant c) : SystemInContract { S with channel := c } :=
  (systemInContract_iff _).mpr ⟨hS.policy, hS.block, hc⟩

/-- A clock edge of the system whose block answers a next state. -/
theorem System.step_cycle_of_clockEdge {S : System} {rst tick issue : Bool} {t : State}
    (h : clockEdge (hostVector rst tick (S.channel.commandLane issue)) S.block = .next t) :
    System.step (.cycle rst tick issue) S = .next { block := t, channel := S.channel.afterCycle issue } := by
  simp only [System.step, step_present, h]

/-- Settles O58: keys and moves of the host keep the host in contract, and so its cycles are in contract, complete, and
keep the block in range. -/
theorem systemInContractIsNeverRefused : Obligations.SystemInContractIsNeverRefused := by
  intro e S hS
  obtain ⟨hpolicy, hblock, hhost⟩ := (systemInContract_iff S).mp hS
  cases e with
  | key ch => exact ⟨_, rfl, systemInContract_of_channel hS (hhost.receive ch)⟩
  | host => exact ⟨_, rfl, systemInContract_of_channel hS hhost.move⟩
  | cycle rst tick issue =>
    obtain ⟨hl, hwf⟩ := hhost.commandLane issue
    obtain ⟨t, ht⟩ := clockEdge_completes (vectorInContract_hostVector hl hwf rst tick)
    have hbuild : t.build = S.block.build := clockEdge_build ht
    refine ⟨_, System.step_cycle_of_clockEdge ht, (systemInContract_iff _).mpr ⟨?_, ?_, ?_⟩⟩
    · rw [hbuild, hpolicy]
    · exact clockEdge_inRange ht hblock (.inl hpolicy)
    · rw [hbuild]
      exact hhost.afterCycle issue

end Sys2Proof.Machine
end

section
/-! PROOFS. The configuration registers as memory (spec/20_memory.md): what a run leaves in them and what the next tick
makes of it (R30, R34, R39, R86), and that both pins recur high whatever the interleaving of ticks and commands (R43,
R120, R131). -/

namespace Sys2Proof.Machine

/-! ### What a run leaves in the registers -/

/-- If `writes` says what one operation leaves in the register `reg`, then a run leaves there the last value that one
of its operations wrote, or what was there before (R30, R39). -/
theorem runOps_leaves_latest {reg : State → Byte} {writes : Instr → Option Byte}
    (hexec : ∀ {i s t}, exec i s = .next t → reg t = (writes i).getD (reg s)) (ops : List Instr) {s t : State}
    (h : runOps ops s = .next t) : reg t = (ops.reverse.findSome? writes).getD (reg s) := by
  induction ops generalizing s with
  | nil => cases h; rfl
  | cons i rest ih =>
    obtain ⟨u, hu, ht⟩ := (runOps_cons_eq_next_iff ..).mp h
    rw [ih ht, hexec hu, List.reverse_cons, List.findSome?_append, Option.getD_or, List.findSome?_singleton]

/-- No run changes the build (R11). -/
theorem runOps_build (ops : List Instr) {s t : State} (h : runOps ops s = .next t) : t.build = s.build := by
  induction ops generalizing s with
  | nil => cases h; rfl
  | cons i rest ih =>
    obtain ⟨u, hu, ht⟩ := (runOps_cons_eq_next_iff ..).mp h
    obtain ⟨hbuild, -, -⟩ := exec_frame hu
    exact (ih ht).trans hbuild

/-- Settles O22: each register by the run's last write to it, and the thresholds by the two registers. -/
theorem latestValueWins : Obligations.LatestValueWins := by
  intro ops s t h
  have hx0 := runOps_leaves_latest (reg := State.x0) (fun hi => (exec_writes hi).1) ops h
  have hx1 := runOps_leaves_latest (reg := State.x1) (fun hi => (exec_writes hi).2) ops h
  exact ⟨hx0, hx1, by rw [State.duties_eq, runOps_build ops h, hx0, hx1]⟩

/-- A run whose first operation answers a next state goes on from there (R38). -/
theorem runOps_cons_of_exec {i : Instr} {s t : State} (h : exec i s = .next t) (rest : List Instr) :
    runOps (i :: rest) s = runOps rest t := by
  rw [runOps_cons, h, andThen_next]

/-- A run of one operation. -/
theorem runOps_singleton (i : Instr) (s : State) : runOps [i] s = exec i s := by
  rw [runOps_cons]
  cases exec i s <;> rfl

/-- Settles O49: `COMMIT` has written both registers when the tick comes, the first write of a split update one of them,
and the second write does not touch what the tick has latched. -/
theorem commitIsSeenWholeAndSplitUpdateHalf : Obligations.CommitIsSeenWholeAndSplitUpdateHalf := by
  intro s v0 v1 h0 h1
  refine ⟨?_, ?_, ?_⟩
  · rw [runOps_cons_of_exec (exec_commit h0 h1), runOps_singleton]
  · intro m hm
    have hbuild : m.build = s.build := (exec_frame hm).1
    rw [runOps_cons_of_exec (exec_wr0 h0), runOps_cons_of_exec hm, runOps_singleton, ← hbuild]
    exact exec_wr1 (by rwa [hbuild])
  · intro m hm
    have hbuild : m.build = s.build := (exec_frame hm).1
    rw [runOps_cons_of_exec (exec_wr1 h1), runOps_cons_of_exec hm, runOps_singleton, ← hbuild]
    exact exec_wr0 (by rwa [hbuild])

/-! ### Phase 0 recurs -/

/-- Without reset, counter and latches after a clock edge are what the tick lane leaves: the command comes after it and
does not write them (R12, R18, R48). -/
theorem clockEdge_counter_and_latches {iv : InputVector} {s t : State} (hrst : rstBit iv = false)
    (h : clockEdge iv s = .next t) :
    t.cnt = (if tickBit iv then s.ticked else s).cnt ∧ t.out1 = (if tickBit iv then s.ticked else s).out1 ∧
      t.out2 = (if tickBit iv then s.ticked else s).out2 := by
  obtain ⟨hrst', -⟩ | ⟨-, c, hc, ht⟩ | ⟨-, -, -, rfl⟩ := clockEdge_cases h
  · simp [hrst] at hrst'
  · exact exec_command_counter_and_latches (laneOf_of_decodeCommand hc) ht
  · exact ⟨rfl, rfl, rfl⟩

/-- A tick that brings the counter to 0 leaves both pins high: no threshold is below 0 (R69, R131). -/
theorem ticked_pins_high_of_phase_zero {s : State} (hs : ConfigInRange s) (hc : nextCount s.cnt = 0) :
    s.ticked.out1 = .high ∧ s.ticked.out2 = .high := by
  obtain ⟨hx0, hx1⟩ := hs
  obtain ⟨hd1, hd2⟩ := dutyPair_le hx0 (hx1.trans (maxLegal_le ..))
  rw [State.ticked_out1, State.ticked_out2, State.duties_eq, comparator_of_le hd1, comparator_of_le hd2, hc]
  simp [unsignedPin_eq_high_iff]

/-- The clock run `env` from `s` is in the state `t` before edge `k`, in range and in the build it began in. -/
structure ReachedInRange (env : Nat → InputVector) (s : State) (k : Nat) (t : State) : Prop where
  run     : clockEdges env k s = .next t
  inRange : InRange t
  build   : t.build = s.build

section
variable {env : Nat → InputVector} {s : State}

/-- With every cycle in contract, the run goes on from where it is by one clock edge and stays in range (R17, R27). -/
theorem ReachedInRange.next {k : Nat} {t : State} (hcontract : VectorInContract s.build.variant (env k))
    (h : ReachedInRange env s k t) : ∃ u, clockEdge (env k) t = .next u ∧ ReachedInRange env s (k + 1) u := by
  rw [← h.build] at hcontract
  obtain ⟨u, hu⟩ := clockEdge_completes hcontract
  exact ⟨u, hu, by simp [clockEdges, h.run, hu], clockEdge_inRange hu h.inRange (.inr hcontract),
    (clockEdge_build hu).trans h.build⟩

variable (hs : InRange s) (henv : ∀ k, VectorInContract s.build.variant (env k) ∧ rstBit (env k) = false)

include hs henv in
/-- With every cycle in contract, the run reaches every clock edge. -/
theorem reachedInRange_exists (k : Nat) : ∃ t, ReachedInRange env s k t := by
  induction k with
  | zero => exact ⟨s, rfl, hs, rfl⟩
  | succ k ih =>
    obtain ⟨t, ht⟩ := ih
    obtain ⟨u, -, hu⟩ := ht.next (henv k).1
    exact ⟨u, hu⟩

include henv

/-- If a tick comes `gap` edges on, the run reaches a tick before which the counter is as it is now: commands do not
move it (R12). -/
theorem ReachedInRange.reaches_tick {k : Nat} {t : State} (h : ReachedInRange env s k t) {gap : Nat}
    (htick : tickBit (env (k + gap)) = true) :
    ∃ m ≥ k, ∃ u, tickBit (env m) = true ∧ ReachedInRange env s m u ∧ u.cnt = t.cnt := by
  induction gap generalizing k t with
  | zero => exact ⟨k, le_rfl, t, htick, h, rfl⟩
  | succ gap ih =>
    cases hk : tickBit (env k) with
    | true => exact ⟨k, le_rfl, t, hk, h, rfl⟩
    | false =>
      obtain ⟨u, hedge, hu⟩ := h.next (henv k).1
      obtain ⟨hcnt, -, -⟩ := clockEdge_counter_and_latches (henv k).2 hedge
      obtain ⟨m, hm, v, hvtick, hv, hvcnt⟩ := ih hu (by rwa [Nat.add_right_comm])
      exact ⟨m, by omega, v, hvtick, hv, by simp [hvcnt, hcnt, hk]⟩

/-- While ticks recur the run reaches a next tick, which finds the counter as it is now (R43, R120). -/
theorem ReachedInRange.reaches_next_tick (hticks : TicksRecur env) {k : Nat} {t : State}
    (h : ReachedInRange env s k t) :
    ∃ m ≥ k, ∃ u, tickBit (env m) = true ∧ ReachedInRange env s m u ∧ u.cnt = t.cnt := by
  obtain ⟨m, hm, hmtick, -⟩ := hticks k
  obtain ⟨gap, rfl⟩ := Nat.exists_eq_add_of_le hm
  exact h.reaches_tick henv hmtick

/-- While ticks recur the run reaches a tick that finds the counter at 100, in `d` ticks more if it is `d` below
(R57). -/
theorem ReachedInRange.reaches_last_phase (hticks : TicksRecur env) {d k : Nat} {t : State}
    (h : ReachedInRange env s k t) (hd : t.cnt.toNat + d = 100) :
    ∃ m ≥ k, ∃ u, tickBit (env m) = true ∧ ReachedInRange env s m u ∧ u.cnt.toNat = 100 := by
  induction d generalizing k t with
  | zero =>
    obtain ⟨m, hm, u, hmtick, hu, hucnt⟩ := h.reaches_next_tick henv hticks
    exact ⟨m, hm, u, hmtick, hu, by rw [hucnt, ← hd, Nat.add_zero]⟩
  | succ d ih =>
    obtain ⟨m, hm, u, hmtick, hu, hucnt⟩ := h.reaches_next_tick henv hticks
    obtain ⟨v, hedge, hv⟩ := hu.next (henv m).1
    obtain ⟨hvcnt, -, -⟩ := clockEdge_counter_and_latches (henv m).2 hedge
    rw [hmtick, if_pos rfl, State.ticked_cnt, hucnt] at hvcnt
    have hadvance : v.cnt.toNat = t.cnt.toNat + 1 := by
      rw [hvcnt, nextCount_toNat_of_le (by omega)]
      omega
    obtain ⟨m', hm', w, hw⟩ := ih hv (by omega)
    exact ⟨m', by omega, w, hw⟩

end

/-- Settles O47: from any point on the run reaches a tick that finds the counter at 100, and that tick raises both
pins. -/
theorem phaseZeroRecursWhileTicksRecur : Obligations.PhaseZeroRecursWhileTicksRecur := by
  intro env s hs hticks henv n
  obtain ⟨t, ht⟩ := reachedInRange_exists hs henv n
  obtain ⟨m, hm, u, hmtick, hu, hucnt⟩ :=
    ht.reaches_last_phase henv hticks (Nat.add_sub_of_le ht.inRange.1)
  obtain ⟨v, hedge, hv⟩ := hu.next (henv m).1
  have hwrap : nextCount u.cnt = 0 := by simp [nextCount, hucnt]
  obtain ⟨hhigh1, hhigh2⟩ := ticked_pins_high_of_phase_zero hu.inRange.2 hwrap
  obtain ⟨hcnt, hout1, hout2⟩ := clockEdge_counter_and_latches (henv m).2 hedge
  rw [hmtick, if_pos rfl] at hcnt hout1 hout2
  exact ⟨m + 1, by omega, v, hv.run, hcnt.trans hwrap, hout1.trans hhigh1, hout2.trans hhigh2⟩

end Sys2Proof.Machine
end

section
/-! PROOFS. The encoding (spec/30_encoding.md): decoder and encoder undo each other (R49, R50, R54), the opcode table
says what the decoder does (R47, R49), and a clock cycle performs what its vector decodes to (R48, R51). -/

namespace Sys2Proof

open Machine

/-! ### The vector and its fields -/

/-- A vector is the concatenation of its five fields (R46). -/
theorem inputVector_fields (iv : InputVector) :
    inputVector (rstBit iv) (tickBit iv) (opField iv) (bField iv) (aField iv) = iv := by
  apply BitVec.eq_of_getLsbD_eq
  intro i hi
  rw [inputVector_bit]
  interval_cases i <;> simp [rstBit, tickBit, opField, bField, aField]

/-- Two concatenations are equal exactly when their fields are. -/
theorem inputVector_inj_iff {rst rst' tick tick' : Bool} {op op' : OpCode} {b b' a a' : Byte} :
    inputVector rst tick op b a = inputVector rst' tick' op' b' a' ↔
      rst = rst' ∧ tick = tick' ∧ op = op' ∧ b = b' ∧ a = a' := by
  refine ⟨fun h => ⟨?_, ?_, ?_, ?_, ?_⟩, ?_⟩
  · simpa using congrArg rstBit h
  · simpa using congrArg tickBit h
  · simpa using congrArg opField h
  · simpa using congrArg bField h
  · simpa using congrArg aField h
  · rintro ⟨rfl, rfl, rfl, rfl, rfl⟩
    rfl

/-- `op[2]` is `IV[18]` (R46). -/
theorem opField_bit_two (iv : InputVector) : (opField iv).getLsbD 2 = iv.getLsbD 18 := by
  simp [opField]

/-! ### What the decoder answers -/

/-- What the command lane decodes to is a mnemonic of the variant (R49). -/
theorem inVariant_of_decodeCommand {v : Variant} {op : OpCode} {b a : Byte} {c : Instr}
    (h : decodeCommand v op b a = some c) : inVariant v c = true := by
  obtain ⟨-, rfl⟩ | ⟨-, rfl⟩ | ⟨-, rfl⟩ | ⟨-, rfl⟩ := (decodeCommand_eq_some_iff ..).mp h
  · rfl
  all_goals cases v <;> rfl

/-- The command decoded reads field `a` for a nonzero code and field `b` for `COMMIT` only (R50). -/
theorem decodeCommand_congr (v : Variant) {op : OpCode} {b b' a a' : Byte}
    (ha : op = 1#3 ∨ op = 2#3 ∨ op = 3#3 → a' = a) (hb : op = 3#3 → b' = b) :
    decodeCommand v op b' a' = decodeCommand v op b a := by
  unfold decodeCommand
  split_ifs with _ h1 h2 h3
  · rfl
  · rw [ha (.inl h1)]
  · rw [ha (.inr (.inl h2))]
  · rw [ha (.inr (.inr h3)), hb h3]
  · rfl

/-- The reserved codes are those with `op[2] = 1` (R51). -/
theorem decodeCommand_eq_none_iff (v : Variant) (op : OpCode) (b a : Byte) :
    decodeCommand v op b a = none ↔ op.getLsbD 2 = true := by
  have hcodes : (op ≠ 0#3 ∧ op ≠ 1#3 ∧ op ≠ 2#3 ∧ op ≠ 3#3) ↔ op.getLsbD 2 = true := by
    revert op
    decide
  rw [← hcodes]
  unfold decodeCommand
  split_ifs <;> simp_all

/-- A decoded command has the code it was decoded from (R49). -/
theorem opCode_of_decodeCommand {v : Variant} {op : OpCode} {b a : Byte} {c : Instr}
    (h : decodeCommand v op b a = some c) : c.opCode = op := by
  obtain ⟨rfl, rfl⟩ | ⟨rfl, rfl⟩ | ⟨rfl, rfl⟩ | ⟨rfl, rfl⟩ := (decodeCommand_eq_some_iff ..).mp h
  · rfl
  all_goals cases v <;> rfl

/-- A decoded command has the operands it was decoded from, if those it does not use are zero (R50, U3). -/
theorem operands_of_decodeCommand {v : Variant} {op : OpCode} {b a : Byte} {c : Instr}
    (h : decodeCommand v op b a = some c) (hb : op ≠ 3#3 → b = 0#8) (ha : op = 0#3 → a = 0#8) :
    c.bOperand = b ∧ c.aOperand = a := by
  obtain ⟨rfl, rfl⟩ | ⟨rfl, rfl⟩ | ⟨rfl, rfl⟩ | ⟨rfl, rfl⟩ := (decodeCommand_eq_some_iff ..).mp h
  · exact ⟨(hb (by decide)).symm, (ha rfl).symm⟩
  · cases v <;> exact ⟨(hb (by decide)).symm, rfl⟩
  · cases v <;> exact ⟨(hb (by decide)).symm, rfl⟩
  · cases v <;> exact ⟨rfl, rfl⟩

/-- Everything the decoder can answer but a reserved code (R48). -/
theorem decode_eq_cycle_iff (v : Variant) (iv : InputVector) (c : Cycle) :
    decode v iv = .cycle c ↔
      (rstBit iv = true ∧ c = .reset) ∨
      (rstBit iv = false ∧ ∃ cmd, decodeCommand v (opField iv) (bField iv) (aField iv) = some cmd ∧
        c = .lanes (tickBit iv) cmd) := by
  cases hrst : rstBit iv with
  | true => simp [decode_of_rst hrst, eq_comm]
  | false =>
    rw [decode_of_not_rst hrst]
    cases decodeCommand v (opField iv) (bField iv) (aField iv) <;> simp [eq_comm]

/-- Every vector decodes to a cycle but one with `rst = 0` and a reserved code (R51). -/
theorem exists_decode_eq_cycle_iff (v : Variant) (iv : InputVector) :
    (∃ c, decode v iv = .cycle c) ↔ rstBit iv = true ∨ (opField iv).getLsbD 2 = false := by
  cases hrst : rstBit iv with
  | true => simp [decode_of_rst hrst]
  | false =>
    rw [decode_of_not_rst hrst, ← Bool.not_eq_true, ← decodeCommand_eq_none_iff v _ (bField iv) (aField iv)]
    cases decodeCommand v (opField iv) (bField iv) (aField iv) <;> simp

/-! ### Decode and encode -/

/-- The vector of a tick or none and a command of the variant decodes to that cycle (R49, R54). -/
theorem decode_hostVector {v : Variant} {c : Instr} (hl : laneOf c = .command) (hv : inVariant v c = true)
    (tick : Bool) : decode v (hostVector false tick c) = .cycle (.lanes tick c) := by
  refine (decode_eq_cycle_iff ..).mpr (.inr ⟨rstBit_inputVector .., c, ?_, ?_⟩)
  · simpa [hostVector] using decodeCommand_of_fields hl hv
  · simp [hostVector]

/-- The encoding of a cycle of the variant decodes to it (R54). -/
theorem decode_encodeCycle {v : Variant} {c : Cycle} (h : c.ofVariant v = true) :
    decode v (encodeCycle c) = .cycle c := by
  cases c with
  | reset => exact decode_of_rst (rstBit_inputVector ..)
  | lanes tick c =>
    obtain ⟨hl, hv⟩ := Bool.and_eq_true_iff.mp h
    exact decode_hostVector (eq_of_beq hl) hv tick

/-- An operation's word is the word of the cycle that performs it and nothing else (R54). -/
theorem encodeCycle_single (i : Instr) : encodeCycle (Cycle.single i) = encode i := by
  cases i <;> rfl

/-- The cycle of an operation of the variant is a cycle of the variant (R47, R49). -/
theorem ofVariant_single {v : Variant} {i : Instr} (h : inVariant v i = true) :
    (Cycle.single i).ofVariant v = true := by
  cases i
  case reset | tick => rfl
  all_goals exact h

/-- Settles O31: an operation is encoded as its single cycle, and a cycle is read back lane by lane. -/
theorem decodeUndoesEncode : Obligations.DecodeUndoesEncode :=
  ⟨fun _ i hv => encodeCycle_single i ▸ decode_encodeCycle (ofVariant_single hv), fun _ _ h => decode_encodeCycle h⟩

/-- Settles O32: the command decoded carries the vector's own fields, and the vector is the concatenation of these. -/
theorem encodeUndoesDecodeOnCanonicalVectors : Obligations.EncodeUndoesDecodeOnCanonicalVectors := by
  intro v iv c hdecode hreset hb ha
  obtain ⟨hrst, rfl⟩ | ⟨hrst, cmd, hcmd, rfl⟩ := (decode_eq_cycle_iff ..).mp hdecode
  · rw [hreset hrst]
    exact ⟨rfl, by decide⟩
  · obtain ⟨hb', ha'⟩ := operands_of_decodeCommand hcmd (hb hrst) (ha hrst)
    refine ⟨by simp [Cycle.ofVariant, laneOf_of_decodeCommand hcmd, inVariant_of_decodeCommand hcmd], ?_⟩
    rw [encodeCycle, opCode_of_decodeCommand hcmd, hb', ha', ← hrst, inputVector_fields]

/-- Settles O33: with `rst = 1` no other field is read; else the tick lane, the code, and the operands the code uses
are. -/
theorem unusedFieldsAreIgnored : Obligations.UnusedFieldsAreIgnored := by
  rintro v iv iv' op rfl hrst' hlanes ha hb
  cases hrst : rstBit iv with
  | true => rw [decode_of_rst hrst, decode_of_rst (hrst'.trans hrst)]
  | false =>
    obtain ⟨htick, hop⟩ := hlanes hrst
    have htick' : tickBit iv' = tickBit iv := htick
    have hop' : opField iv' = opField iv := hop
    have hcommand : decodeCommand v (opField iv) (bField iv') (aField iv') =
        decodeCommand v (opField iv) (bField iv) (aField iv) := decodeCommand_congr v (ha hrst) (hb hrst)
    rw [decode_of_not_rst hrst, decode_of_not_rst (hrst'.trans hrst), htick', hop', hcommand]

/-! ### The opcode table -/

/-- The rows of the table are those of the nine operations (R49). -/
theorem exists_row_of_mem_opcodeTable {r : OpcodeRow} (h : r ∈ opcodeTable) : ∃ i : Instr, r = i.row := by
  simp only [opcodeTable, List.mem_cons, List.not_mem_nil, or_false] at h
  obtain h | h | h | h | h | h | h | h | h := h <;> exact ⟨_, h⟩

/-- An operation's row is in the builds that have its mnemonic (R49). -/
theorem row_inBuild (v : Variant) (i : Instr) : i.row.inBuild v = inVariant v i := by
  cases i <;> cases v <;> rfl

/-- An operation's row is of its lane (R47). -/
theorem row_lane (i : Instr) : i.row.lane = laneOf i := by
  cases i <;> rfl

theorem laneOf_eq_reset_iff (i : Instr) : laneOf i = .reset ↔ i = .reset := by
  cases i <;> simp [laneOf]

theorem laneOf_eq_tick_iff (i : Instr) : laneOf i = .tick ↔ i = .tick := by
  cases i <;> simp [laneOf]

/-- The command lane's rows match their code, with `rst = 0`, and mask everything else (R49). -/
theorem row_of_command {i : Instr} (hl : laneOf i = .command) :
    i.row.mask = 0x170000#21 ∧ i.row.value = inputVector false false i.opCode 0 0 := by
  cases i
  case reset | tick => simp [laneOf] at hl
  all_goals
    simp only [Instr.row, Instr.opCode]
    decide

/-- The row of a command of a build is the one its code selects, whatever the operands (R49). -/
theorem decodeCommand_map_row {v : Variant} {i : Instr} (hl : laneOf i = .command) (hv : inVariant v i = true) :
    (decodeCommand v i.opCode 0 0).map Instr.row = some i.row := by
  cases i
  case reset | tick => simp [laneOf] at hl
  case nop => rfl
  all_goals
    obtain rfl := eq_of_beq hv
    rfl

/-- Two commands of a build have one row exactly when they have one code (R49). -/
theorem row_eq_row_iff {v : Variant} {i j : Instr} (hi : laneOf i = .command) (hj : laneOf j = .command)
    (hiv : inVariant v i = true) (hjv : inVariant v j = true) : i.row = j.row ↔ i.opCode = j.opCode := by
  constructor
  · intro h
    have hvalue : inputVector false false i.opCode 0 0 = inputVector false false j.opCode 0 0 := by
      rw [← (row_of_command hi).2, h, (row_of_command hj).2]
    obtain ⟨-, -, hop, -⟩ := inputVector_inj_iff.mp hvalue
    exact hop
  · intro h
    rw [← Option.some_inj, ← decodeCommand_map_row hi hiv, h, decodeCommand_map_row hj hjv]

/-- The tick lane's mask keeps `rst` and `tick` (R49). -/
theorem and_tickMask (iv : InputVector) : iv &&& 0x180000#21 = inputVector (rstBit iv) (tickBit iv) 0 0 0 := by
  apply BitVec.eq_of_getLsbD_eq
  intro i hi
  rw [inputVector_bit]
  interval_cases i <;> simp [rstBit, tickBit]

/-- The reset lane's mask keeps `rst` (R49). -/
theorem and_resetMask (iv : InputVector) : iv &&& 0x100000#21 = inputVector (rstBit iv) false 0 0 0 := by
  apply BitVec.eq_of_getLsbD_eq
  intro i hi
  rw [inputVector_bit]
  interval_cases i <;> simp [rstBit]

/-- The reset row selects the vectors with `rst = 1` (R47). -/
theorem row_reset_selects_iff (iv : InputVector) : (Instr.row .reset).selects iv = true ↔ rstBit iv = true := by
  have hvalue : (Instr.row .reset).value = inputVector true false 0 0 0 := by decide
  have hmask : iv &&& (Instr.row .reset).mask = inputVector (rstBit iv) false 0 0 0 := and_resetMask iv
  rw [OpcodeRow.selects, beq_iff_eq, hmask, hvalue]
  simp [inputVector_inj_iff]

/-- The tick row selects the vectors with `rst = 0` and `tick = 1` (R47). -/
theorem row_tick_selects_iff (iv : InputVector) :
    (Instr.row .tick).selects iv = true ↔ rstBit iv = false ∧ tickBit iv = true := by
  have hvalue : (Instr.row .tick).value = inputVector false true 0 0 0 := by decide
  have hmask : iv &&& (Instr.row .tick).mask = inputVector (rstBit iv) (tickBit iv) 0 0 0 := and_tickMask iv
  rw [OpcodeRow.selects, beq_iff_eq, hmask, hvalue]
  simp [inputVector_inj_iff]

/-- A command's row selects the vectors with `rst = 0` and its code (R47, R49). -/
theorem row_command_selects_iff {i : Instr} (hl : laneOf i = .command) (iv : InputVector) :
    i.row.selects iv = true ↔ rstBit iv = false ∧ opField iv = i.opCode := by
  obtain ⟨hmask, hvalue⟩ := row_of_command hl
  rw [OpcodeRow.selects, beq_iff_eq, hmask, Laws.and_commandMask, hvalue]
  simp [inputVector_inj_iff]

/-- With `rst = 1` the reset row is the only one that selects the vector, and with `rst = 0` it does not (R47). -/
theorem rstBit_of_row_selects {i : Instr} {iv : InputVector} (h : i.row.selects iv = true) :
    rstBit iv = (laneOf i == .reset) := by
  cases hl : laneOf i with
  | reset =>
    obtain rfl := (laneOf_eq_reset_iff i).mp hl
    exact (row_reset_selects_iff iv).mp h
  | tick =>
    obtain rfl := (laneOf_eq_tick_iff i).mp hl
    exact ((row_tick_selects_iff iv).mp h).1
  | command => exact ((row_command_selects_iff hl iv).mp h).1

/-- Settles O35: the reset row stands alone by `rst`, and two command rows that select one vector have its code. -/
theorem opcodeRowsOfALaneDoNotOverlap : Obligations.OpcodeRowsOfALaneDoNotOverlap := by
  intro v iv r hr r' hr' hbuild hbuild' hsel hsel' hlane
  obtain ⟨i, rfl⟩ := exists_row_of_mem_opcodeTable hr
  obtain ⟨j, rfl⟩ := exists_row_of_mem_opcodeTable hr'
  rw [row_inBuild] at hbuild hbuild'
  rw [row_lane, row_lane] at hlane
  have hrst : (laneOf i == .reset) = (laneOf j == .reset) := by
    rw [← rstBit_of_row_selects hsel, rstBit_of_row_selects hsel']
  have hlane' : laneOf i = laneOf j := by
    obtain h | h := hlane
    · exact h
    · rw [h] at hrst ⊢
      exact (eq_of_beq hrst.symm).symm
  cases hl : laneOf i with
  | reset => rw [(laneOf_eq_reset_iff i).mp hl, (laneOf_eq_reset_iff j).mp (hlane' ▸ hl)]
  | tick => rw [(laneOf_eq_tick_iff i).mp hl, (laneOf_eq_tick_iff j).mp (hlane' ▸ hl)]
  | command =>
    have hj : laneOf j = .command := hlane' ▸ hl
    obtain ⟨-, hop⟩ := (row_command_selects_iff hl iv).mp hsel
    obtain ⟨-, hop'⟩ := (row_command_selects_iff hj iv).mp hsel'
    exact (row_eq_row_iff hl hj hbuild hbuild').mpr (hop ▸ hop')

/-- Rows of different lanes are different (R47). -/
theorem row_ne_row {i j : Instr} {l l' : Lane} (hi : laneOf i = l) (hj : laneOf j = l') (h : l ≠ l') :
    i.row ≠ j.row :=
  fun hrow => h (by rw [← hi, ← hj, ← row_lane, hrow, row_lane])

/-- The rows of the operations of a cycle with `rst = 0` (R48). -/
theorem mem_rows_lanes_iff (r : OpcodeRow) (tick : Bool) (c : Instr) :
    r ∈ (Cycle.lanes tick c).operations.map Instr.row ↔ tick = true ∧ r = Instr.row .tick ∨ r = c.row := by
  cases tick <;> simp [Cycle.operations]

/-- Settles O34: lane by lane, the row selects by the fields the decoder reads, and a command row is known by its
code. -/
theorem decoderAgreesWithTheOpcodeTable : Obligations.DecoderAgreesWithTheOpcodeTable := by
  intro v iv c hdecode r hr hbuild
  obtain ⟨i, rfl⟩ := exists_row_of_mem_opcodeTable hr
  rw [row_inBuild] at hbuild
  obtain ⟨hrst, rfl⟩ | ⟨hrst, cmd, hcmd, rfl⟩ := (decode_eq_cycle_iff ..).mp hdecode
  · rw [Cycle.operations, List.map_singleton, List.mem_singleton]
    constructor
    · intro hsel
      have hl : (laneOf i == .reset) = true := by rw [← rstBit_of_row_selects hsel, hrst]
      rw [(laneOf_eq_reset_iff i).mp (eq_of_beq hl)]
    · intro h
      rw [h]
      exact (row_reset_selects_iff iv).mpr hrst
  · have hlcmd : laneOf cmd = .command := laneOf_of_decodeCommand hcmd
    rw [mem_rows_lanes_iff]
    cases hl : laneOf i with
    | reset =>
      have hsel : ¬ i.row.selects iv = true := fun h => by simp [rstBit_of_row_selects h, hl] at hrst
      have htick : i.row ≠ Instr.row .tick := row_ne_row hl rfl (by decide)
      simp [hsel, htick, row_ne_row hl hlcmd]
    | tick =>
      obtain rfl := (laneOf_eq_tick_iff i).mp hl
      simp [row_tick_selects_iff, hrst, row_ne_row hl hlcmd]
    | command =>
      have htick : i.row ≠ Instr.row .tick := row_ne_row hl rfl (by decide)
      rw [row_command_selects_iff hl, row_eq_row_iff hl hlcmd hbuild (inVariant_of_decodeCommand hcmd),
        opCode_of_decodeCommand hcmd]
      simpa [hrst, htick] using eq_comm

end Sys2Proof
end

section
/-! PROOFS. The clock cycle (spec/30_encoding.md): what a clock edge performs is what its vector decodes to (R48, R51,
R54), in the mnemonics of the build (R49), and a pair update of the host reaches the registers cycle by cycle (R55, R99,
R100). -/

namespace Sys2Proof.Machine

/-! ### The clock edge -/

/-- A host command in a build of the other variant (R49). -/
theorem hostCommand_of_otherVariant {v : Variant} {legal : Bool} {s after : State} (h : s.build.variant ≠ v) :
    hostCommand v legal s after = .refused .otherVariant :=
  if_pos h

/-- Settles O19: each of the six is a host command of one variant. -/
theorem mnemonicsOfTheOtherVariantAreRefused : Obligations.MnemonicsOfTheOtherVariantAreRefused := by
  refine fun s a b => ⟨fun hv => ?_, fun hv => ?_⟩
  · have hne : s.build.variant ≠ .A := by simp [hv]
    exact ⟨hostCommand_of_otherVariant hne, hostCommand_of_otherVariant hne, hostCommand_of_otherVariant hne⟩
  · have hne : s.build.variant ≠ .B := by simp [hv]
    exact ⟨hostCommand_of_otherVariant hne, hostCommand_of_otherVariant hne, hostCommand_of_otherVariant hne⟩

/-- A clock edge performs the cycle its vector decodes to (R48). -/
theorem clockEdge_of_decode {iv : InputVector} {s : State} {c : Cycle} (h : decode s.build.variant iv = .cycle c) :
    clockEdge iv s = runCycle c s := by
  rw [clockEdge, h]

/-- A clock edge with `rst = 0` performs the tick of its vector and then the command of its fields (R48). -/
theorem clockEdge_of_decodeCommand {iv : InputVector} {s : State} {c : Instr} (hrst : rstBit iv = false)
    (hc : decodeCommand s.build.variant (opField iv) (bField iv) (aField iv) = some c) :
    clockEdge iv s = runCycle (.lanes (tickBit iv) c) s :=
  clockEdge_of_decode ((decode_eq_cycle_iff ..).mpr (.inr ⟨hrst, c, hc, rfl⟩))

/-- A clock edge with a reserved code is the reserved cycle (R51). -/
theorem clockEdge_of_reservedCode {iv : InputVector} {s : State} (hrst : rstBit iv = false)
    (hop : (opField iv).getLsbD 2 = true) : clockEdge iv s = reservedCycle (tickBit iv) s := by
  rw [clockEdge, decode_of_not_rst hrst, (decodeCommand_eq_none_iff ..).mpr hop]

/-- Settles O25: the command of the fields is the one the decoder finds in them. -/
theorem cycleIsResetOrTickThenCommand : Obligations.CycleIsResetOrTickThenCommand := by
  rintro s s0 iv rest hinputs rfl
  rw [step_of_inputs hinputs]
  refine ⟨fun hrst => clockEdge_of_decode (decode_of_rst hrst), ?_⟩
  rintro hrst op a b cmd rfl rfl rfl hcmd
  refine clockEdge_of_decodeCommand hrst ((decodeCommand_eq_some_iff ..).mpr ?_)
  obtain hnop | ⟨hv, h⟩ | ⟨hv, h⟩ := hcmd
  · exact .inl hnop
  all_goals
    dsimp only
    rw [hv]
    exact .inr h

/-- Settles O26: the commit acts on the state the tick leaves, whose latches it does not touch. -/
theorem tickReadsTheConfigurationBeforeTheCommand : Obligations.TickReadsTheConfigurationBeforeTheCommand := by
  rintro s t v0 v1 rest - hinputs h0 h1 ⟨⟩
  rw [step_of_inputs hinputs, clockEdge_of_decodeCommand (c := commit s.build.variant v0 v1) (by simp) (by simp),
    tickBit_inputVector, runCycle_tick]
  exact exec_commit (s := ({ s with inputs := rest } : State).ticked) h0 h1

/-- Settles O27: a vector fails to decode exactly by its code, and then the cycle is the reserved one. -/
theorem reservedCodesAreRefusedOrActAsNop : Obligations.ReservedCodesAreRefusedOrActAsNop := by
  refine ⟨fun v iv => ?_, fun s iv rest hinputs hrst hop => ?_⟩
  · rw [← opField_bit_two]
    exact exists_decode_eq_cycle_iff v iv
  · rw [step_of_inputs hinputs, clockEdge_of_reservedCode hrst ((opField_bit_two iv).trans hop)]
    refine ⟨fun hp => ?_, fun hp => ?_⟩
    · simp [reservedCycle, hp]
    · change reservedCycle (iv.getLsbD 19) _ = _
      cases iv.getLsbD 19 <;> simp [reservedCycle, hp]

/-- The single cycle of an operation performs it (R48, R54). -/
theorem runCycle_single (i : Instr) (s : State) : runCycle (Cycle.single i) s = exec i s := by
  cases i <;> rfl

/-- Settles O28: a step is the clock edge of the vector sampled. -/
theorem stepRunsTheDecodedOperation : Obligations.StepRunsTheDecodedOperation := by
  refine fun s => ⟨fun i hi => ?_, fun c hc => ?_, fun iv rest h => ?_, fun h => ?_⟩
  · rw [step, clockEdge_of_decode (by rwa [State.afterSample_build]), runCycle_single]
  · rw [step, clockEdge_of_decode (by rwa [State.afterSample_build])]
    rfl
  · simp [State.sampled, State.afterSample, h]
  · simp [State.sampled, State.afterSample, h]

/-- Settles O29: the word presented is the vector sampled, and a word of 21 bits is not cut. -/
theorem presentedWordRunsNext : Obligations.PresentedWordRunsNext := by
  intro s w i hw hdecode
  have huncut : w % 2 ^ 24 = w := Nat.mod_eq_of_lt (hw.trans (by decide))
  rw [State.withFetchWord, huncut, step_present, clockEdge_of_decode hdecode, runCycle_single]

/-- Settles O36: each word by running the decoder on it. -/
theorem writtenOutWordsDecode : Obligations.WrittenOutWordsDecode := by
  unfold Obligations.WrittenOutWordsDecode
  decide

/-! ### A pair update of the host -/

/-- The tick lane alone leaves the registers as they were (R16). -/
theorem tickLane_registers (tick : Bool) (s : State) :
    (if tick then s.ticked else s).x0 = s.x0 ∧ (if tick then s.ticked else s).x1 = s.x1 := by
  cases tick <;> simp

/-- A run of the system that answers a next state, taken apart at its first event. -/
theorem System.run_cons_eq_next_iff (e : Event) (rest : List Event) (S S' : System) :
    System.run (e :: rest) S = .next S' ↔ ∃ S1, System.step e S = .next S1 ∧ System.run rest S1 = .next S' := by
  rw [System.run]
  cases System.step e S <;> simp

/-- A run of the system that answers a next state, taken apart between its events. -/
theorem System.run_append_eq_next_iff (es es' : List Event) (S S' : System) :
    System.run (es ++ es') S = .next S' ↔ ∃ S1, System.run es S = .next S1 ∧ System.run es' S1 = .next S' := by
  induction es generalizing S with
  | nil => simp [System.run]
  | cons e rest ih =>
    simp only [List.cons_append, System.run_cons_eq_next_iff, ih]
    exact ⟨fun ⟨S1, h1, S2, h2, h⟩ => ⟨S2, ⟨S1, h1, h2⟩, h⟩, fun ⟨S2, ⟨S1, h1, h2⟩, h⟩ => ⟨S1, h1, S2, h2, h⟩⟩

/-- Every event keeps the system's invariant (R104). -/
theorem systemInContract_of_step {e : Event} {S S' : System} (hS : SystemInContract S)
    (h : System.step e S = .next S') : SystemInContract S' := by
  obtain ⟨S1, h1, hS1⟩ := systemInContractIsNeverRefused e S hS
  obtain rfl := Host.Outcome.next.inj (h.symm.trans h1)
  exact hS1

/-- A cycle without reset in which the host issues a command: the block performs the tick and that command, and the host
only takes it off its queue (R48, R55). -/
theorem step_issue {S S' : System} (hS : SystemInContract S) {tick : Bool} {c : Instr} {rest : List Instr}
    (hq : S.channel.queue = c :: rest) (h : System.step (.cycle false tick true) S = .next S') :
    exec c (if tick then S.block.ticked else S.block) = .next S'.block ∧
      S'.channel = { S.channel with queue := rest } := by
  obtain ⟨hl, hwf⟩ := hS.channel.queue c (hq ▸ List.mem_cons_self)
  obtain ⟨hv, -⟩ := Bool.and_eq_true_iff.mp hwf
  have hedge : clockEdge (hostVector false tick (S.channel.commandLane true)) S.block =
      exec c (if tick then S.block.ticked else S.block) := by
    have hlane : S.channel.commandLane true = c := by simp [Channel.commandLane, hq]
    rw [hlane, clockEdge_of_decode (decode_hostVector hl (hS.variant ▸ hv) tick)]
    cases tick <;> rfl
  rw [System.step, step_present, hedge] at h
  cases hexec : exec c (if tick then S.block.ticked else S.block) with
  | next t =>
    rw [hexec] at h
    obtain rfl := Host.Outcome.next.inj h
    exact ⟨rfl, by simp [Channel.afterCycle, hq]⟩
  | fault r => simp [hexec] at h
  | refused r => simp [hexec] at h

/-- While the host issues all its commands, with ticks at any of the cycles, each register gets the last value that one
of them writes, and the host only empties its queue (R30, R55). -/
theorem run_issue {es : List Event} {S S' : System} (hS : SystemInContract S)
    (hlen : es.length = S.channel.queue.length) (hes : ∀ e ∈ es, ∃ tick, e = .cycle false tick true)
    (h : System.run es S = .next S') :
    S'.block.x0 = (S.channel.queue.reverse.findSome? writesX0).getD S.block.x0 ∧
      S'.block.x1 = (S.channel.queue.reverse.findSome? writesX1).getD S.block.x1 ∧
      S'.channel = { S.channel with queue := [] } := by
  induction es generalizing S with
  | nil =>
    obtain rfl := Host.Outcome.next.inj h
    have hq : S.channel.queue = [] := List.eq_nil_of_length_eq_zero hlen.symm
    rw [hq]
    exact ⟨rfl, rfl, by rw [← hq]⟩
  | cons e es ih =>
    obtain ⟨⟨tick, rfl⟩, hrest⟩ := List.forall_mem_cons.mp hes
    obtain ⟨c, rest, hq⟩ := List.exists_cons_of_length_eq_add_one hlen.symm
    obtain ⟨S1, h1, h⟩ := (System.run_cons_eq_next_iff ..).mp h
    obtain ⟨hexec, hchannel⟩ := step_issue hS hq h1
    obtain ⟨hx0, hx1⟩ := exec_writes hexec
    have hlen1 : es.length = S1.channel.queue.length := by simpa [hchannel, hq] using hlen
    obtain ⟨ih0, ih1, ihchannel⟩ := ih (systemInContract_of_step hS h1) hlen1 hrest h
    obtain ⟨hlane0, hlane1⟩ := tickLane_registers tick S.block
    rw [ih0, ih1, ihchannel, hx0, hx1, hchannel, hq, hlane0, hlane1]
    simp only [List.reverse_cons, List.findSome?_append, List.findSome?_singleton, Option.getD_or, and_self]

/-- The commands of a pair update write both values, in either style and order (R55). -/
theorem setPair_writes (v : Variant) (style : CommitStyle) (order : SplitOrder) (v0 v1 : Byte) :
    (setPair v style order v0 v1).reverse.findSome? writesX0 = some v0 ∧
      (setPair v style order v0 v1).reverse.findSome? writesX1 = some v1 := by
  cases v <;> cases style <;> cases order <;> exact ⟨rfl, rfl⟩

/-- Settles O59: the commands issued are those of the pair update, and each register has one writer among them. -/
theorem issuedPairReachesTheRegisters : Obligations.IssuedPairReachesTheRegisters := by
  intro S S' v0 v1 es hS hq hlen hes h
  obtain ⟨hx0, hx1, hchannel⟩ := run_issue hS hlen hes h
  obtain ⟨hwrites0, hwrites1⟩ := setPair_writes S.channel.variant S.channel.style S.channel.order v0 v1
  rw [hq] at hx0 hx1
  exact ⟨by rw [hx0, hwrites0, Option.getD_some], by rw [hx1, hwrites1, Option.getD_some], by rw [hchannel], hchannel⟩

/-- A host with commands to issue waits (log 22). -/
theorem Channel.move_of_queue_ne_nil {c : Channel} (h : c.queue ≠ []) : c.move = c := by
  obtain ⟨-, hmove⟩ | ⟨hq, -⟩ | ⟨hq, -⟩ := c.move_cases
  · exact hmove
  all_goals exact absurd hq h

/-- A host that has issued its commands echoes (R99, R100, R102). -/
theorem Channel.move_of_issued {c : Channel} {p q : Nat} (hq : c.queue = []) (hphase : c.phase = .issuing p q) :
    c.move = c.echo p q := by
  simp [Channel.move, hq, hphase]

/-- Settles O60: the pair that validated is issued as in O59, and the host's next move is the echo. -/
theorem validatedPairIsIssuedThenEchoed : Obligations.ValidatedPairIsIssuedThenEchoed := by
  refine ⟨fun _ _ _ => ⟨rfl, rfl, rfl⟩, fun c dLine line p q => ⟨fun hphase hv => ?_, fun hphase hv => ?_⟩,
    fun _ => Channel.move_of_queue_ne_nil, fun _ _ _ => Channel.move_of_issued, ?_⟩
  · simp [Channel.lineRead, hphase, hv]
  · simp [Channel.lineRead, hphase, hv]
  · intro S S' c p q es hS hchannel hc hlen hes h
    have hq : S.channel.queue =
        setPair S.channel.variant S.channel.style S.channel.order (BitVec.ofNat 8 p) (BitVec.ofNat 8 q) := by
      rw [hchannel, Channel.conclude, hc]
      rfl
    have hphase : S.channel.phase = .issuing p q := by rw [hchannel]; rfl
    obtain ⟨S1, h1, h2⟩ := (System.run_append_eq_next_iff ..).mp h
    obtain ⟨hx0, hx1, hempty, hrest⟩ := issuedPairReachesTheRegisters S S1 _ _ es hS hq hlen hes h1
    have hmove : S1.channel.move = S1.channel.echo p q :=
      Channel.move_of_issued hempty (by rw [hrest]; exact hphase)
    obtain ⟨S2, hhost, h3⟩ := (System.run_cons_eq_next_iff ..).mp h2
    obtain rfl := Host.Outcome.next.inj hhost
    obtain rfl := Host.Outcome.next.inj h3
    rw [hmove]
    exact ⟨hx0, hx1, hempty, rfl, rfl⟩

end Sys2Proof.Machine
end

section
/-! PROOFS. The tick and the waveform (spec/40_tick_pwm_engine.md): the three steps of one tick (R57 to R61), what it
reads and what it does not (R61, R68), the counter over runs (R65), and the pins over a frame (R66, R69 to R71). -/

namespace Sys2Proof.Machine

/-! ### One tick -/

/-- Settles O5: the thresholds given are those of the state, and neither of them leaves the contract. -/
theorem tickDoesItsThreeSteps : Obligations.TickDoesItsThreeSteps := by
  rintro s c d1 d2 h1 h2 rfl hd
  have hduties : s.duties = (d1, d2) := by
    rw [hd, State.duties_eq]
    cases hv : s.build.variant with
    | A => cases hs : s.build.dirSwap <;> by_cases hx : s.x0 = 1 <;> simp [dutyPair_A hv, hs, hx]
    | B => exact dutyPair_B hv ..
  rw [exec_tick, State.ticked, hduties, comparator_of_le h1, comparator_of_le h2]
  rfl

/-- Settles O6: the latches are whatever the comparators answer. -/
theorem tickAlwaysCompletes : Obligations.TickAlwaysCompletes :=
  fun s => ⟨s.ticked.out1, s.ticked.out2, exec_tick s⟩

/-- A comparator on a threshold the contract allows is high exactly up to the threshold (R60, R66). -/
theorem comparator_eq_high_iff {p : ContractPolicy} {c d : Byte} (h : d.toNat ≤ 100) :
    comparator p c d = .high ↔ c.toNat ≤ d.toNat := by
  rw [comparator_of_le h, unsignedPin_eq_high_iff]

/-- A comparator on threshold 0 is high only at counter 0 (R66). -/
theorem comparator_zero_eq_high_iff {p : ContractPolicy} {c : Byte} : comparator p c 0 = .high ↔ c = 0 := by
  rw [comparator_eq_high_iff (by decide)]
  exact BitVec.le_zero_iff

/-- A comparator on threshold 100 is high at every counter value a tick leaves (R66). -/
theorem comparator_top_nextCount (p : ContractPolicy) (c : Byte) : comparator p (nextCount c) 100 = .high :=
  (comparator_eq_high_iff (by decide)).mpr (nextCount_toNat_le c)

/-- Settles O7: a pin after a tick is its channel's comparator. -/
theorem pinIsHighIffCounterAtOrBelowThreshold : Obligations.PinIsHighIffCounterAtOrBelowThreshold := by
  rintro s t ⟨⟩
  rw [State.ticked_out1, State.ticked_out2, State.ticked_cnt]
  refine ⟨comparator_eq_high_iff, comparator_eq_high_iff, ?_, ?_, ?_, ?_⟩ <;> intro h <;> rw [h]
  · exact comparator_zero_eq_high_iff
  · exact comparator_zero_eq_high_iff
  · exact comparator_top_nextCount ..
  · exact comparator_top_nextCount ..

/-- Settles O8: variant A puts the power on one channel and 0 on the other. -/
theorem atMostOneThresholdIsNonzeroInVariantA : Obligations.AtMostOneThresholdIsNonzeroInVariantA := by
  intro s hv _ _
  rw [State.duties_eq, dutyPair_A hv]
  split
  · exact ⟨fun _ => ⟨rfl, rfl⟩, fun h => absurd rfl h, fun h => by rw [h]; rfl⟩
  · exact ⟨fun h => absurd rfl h, fun _ => ⟨rfl, rfl⟩, fun h => by rw [h]; rfl⟩

/-- Settles O9: the counter a tick leaves is the one its comparators compared. -/
theorem bothPinsAreHighAtPhaseZero : Obligations.BothPinsAreHighAtPhaseZero := by
  rintro s t hs ⟨⟩ hc
  exact ticked_pins_high_of_phase_zero hs hc

/-! ### What changes nothing -/

/-- A command that leaves both registers as they were leaves the whole state so (R76). -/
theorem eq_of_exec_command_of_registers_eq {i : Instr} {s t : State} (hl : laneOf i = .command) (h : exec i s = .next t)
    (hx0 : t.x0 = s.x0) (hx1 : t.x1 = s.x1) : t = s := by
  obtain ⟨-, -, ⟨rfl, -⟩ | ⟨a, -, rfl⟩ | ⟨a, -, rfl⟩ | ⟨a, b, -, rfl⟩⟩ := exec_command_cases hl h
  · rfl
  · obtain rfl : a = s.x0 := hx0
    rfl
  · obtain rfl : a = s.x1 := hx1
    rfl
  · obtain rfl : a = s.x0 := hx0
    obtain rfl : b = s.x1 := hx1
    rfl

/-- A well-formed command whose values are those held leaves the state as it was (R68). -/
theorem exec_command_of_values_held {i : Instr} {s : State} (hl : laneOf i = .command)
    (hwf : i.wellFormed s.build.variant = true) (h0 : writesX0 i = none ∨ writesX0 i = some s.x0)
    (h1 : writesX1 i = none ∨ writesX1 i = some s.x1) : exec i s = .next s := by
  obtain ⟨hv, hc⟩ := Bool.and_eq_true_iff.mp hwf
  obtain ⟨t, ht⟩ := exec_command_completes hv hc
  obtain ⟨hx0, hx1⟩ := exec_writes ht
  have held0 : t.x0 = s.x0 := by rcases h0 with h0 | h0 <;> rw [hx0, h0] <;> rfl
  have held1 : t.x1 = s.x1 := by rcases h1 with h1 | h1 <;> rw [hx1, h1] <;> rfl
  rw [ht, eq_of_exec_command_of_registers_eq hl ht held0 held1]

/-- Settles O20: the command leaves the state it found, and adds nothing to the waveform. -/
theorem resubmittingTheSameValuesChangesNothing : Obligations.ResubmittingTheSameValuesChangesNothing := by
  intro i s hl hwf h0 h1
  have h : exec i s = .next s := exec_command_of_values_held hl hwf h0 h1
  exact ⟨h, fun ops => ⟨runOps_cons_of_exec h ops, waveform_command hl h ops⟩⟩

/-- No command is the tick: they are in different lanes (R47). -/
theorem ne_tick_of_command {i : Instr} (hl : laneOf i = .command) : i ≠ .tick := by
  rintro rfl
  simp [laneOf] at hl

/-- A command neither reads nor writes the latches (R18, R76). -/
theorem exec_command_of_other_latches {i : Instr} {s t : State} (hl : laneOf i = .command) (h : exec i s = .next t)
    (o1 o2 : Level) : exec i { s with out1 := o1, out2 := o2 } = .next { t with out1 := o1, out2 := o2 } := by
  cases i
  case reset | tick => simp [laneOf] at hl
  case nop => cases h; rfl
  all_goals
    obtain ⟨hv, hc, rfl⟩ := (hostCommand_eq_next_iff ..).mp h
    exact (hostCommand_eq_next_iff ..).mpr ⟨hv, hc, rfl⟩

/-- Settles O24, by induction on the run: a tick or a reset leaves the same state whatever the latches were, and a
command before it carries the difference along. -/
theorem latchesAreForgottenAtTheFirstTick : Obligations.LatchesAreForgottenAtTheFirstTick := by
  intro ops
  induction ops with
  | nil => intro s t o1 o2 hmem; exact absurd hmem List.not_mem_nil
  | cons i rest ih =>
    intro s t o1 o2 hmem h
    cases hl : laneOf i with
    | reset => obtain rfl := (laneOf_eq_reset_iff i).mp hl; exact h
    | tick => obtain rfl := (laneOf_eq_tick_iff i).mp hl; exact h
    | command =>
      obtain ⟨u, hu, ht⟩ := (runOps_cons_eq_next_iff ..).mp h
      have hrest : Instr.tick ∈ rest := List.mem_of_ne_of_mem (ne_tick_of_command hl).symm hmem
      rw [runOps_cons_of_exec (exec_command_of_other_latches hl hu o1 o2)]
      exact ih u t o1 o2 hrest ht

/-! ### The counter over a run -/

/-- Settles O41, by induction on the run: a tick adds one modulo 101, a command leaves the counter alone. -/
theorem counterCountsTicksModuloTheFrame : Obligations.CounterCountsTicksModuloTheFrame := by
  intro ops
  induction ops with
  | nil =>
    rintro s t hs - ⟨⟩
    exact (Nat.mod_eq_of_lt (Nat.lt_succ_of_le hs)).symm
  | cons i rest ih =>
    intro s t hs hops h
    obtain ⟨hi, hrest⟩ := List.forall_mem_cons.mp hops
    obtain ⟨u, hu, ht⟩ := (runOps_cons_eq_next_iff ..).mp h
    cases hl : laneOf i with
    | reset => exact absurd ((laneOf_eq_reset_iff i).mp hl) hi
    | tick =>
      obtain rfl := (laneOf_eq_tick_iff i).mp hl
      obtain rfl := Host.Outcome.next.inj hu
      rw [ih s.ticked t (counterInRange_ticked s) hrest ht, State.ticked_cnt, nextCount_toNat_of_le hs,
        List.count_cons_self]
      omega
    | command =>
      obtain ⟨hcnt, -, -⟩ := exec_command_counter_and_latches hl hu
      rw [ih u t (exec_command_counterInRange hl hu hs) hrest ht, hcnt,
        List.count_cons_of_ne (ne_tick_of_command hl)]

/-- A first tick before ticks in a row is one more of them. -/
theorem ticks_ticked (n : Nat) (s : State) : ticks n s.ticked = ticks (n + 1) s := by
  induction n with
  | zero => rfl
  | succ n ih => rw [ticks_succ, ih, ← ticks_succ]

/-- A run of ticks only is ticks in a row (R55). -/
theorem runOps_replicate_tick (n : Nat) (s : State) : runOps (List.replicate n .tick) s = .next (ticks n s) := by
  induction n generalizing s with
  | zero => rfl
  | succ n ih => rw [List.replicate_succ, runOps_cons_of_exec (exec_tick s), ih, ticks_ticked]

/-- Settles O42: 101 ticks are no ticks modulo 101, and the counter is at `c` after tick `k` exactly when `k` is the
distance from the phase of the first tick up to `c`. -/
theorem frameReturnsAndVisitsEveryPhaseOnce : Obligations.FrameReturnsAndVisitsEveryPhaseOnce := by
  refine ⟨fun ops s t hs hops hcount h => ?_,
    fun s (hs : s.cnt.toNat ≤ 100) => ⟨runOps_replicate_tick 101 s, fun c hc => ?_⟩⟩
  · have hcnt := counterCountsTicksModuloTheFrame ops s t hs hops h
    rw [hcount, Nat.add_mod_right] at hcnt
    exact BitVec.eq_of_toNat_eq (hcnt.trans (Nat.mod_eq_of_lt (Nat.lt_succ_of_le hs)))
  · refine ⟨(c + 100 - s.cnt.toNat) % 101, ⟨Nat.mod_lt _ (by decide), ?_⟩, ?_⟩
    · rw [ticks_cnt _ hs]
      omega
    · rintro k ⟨hk, hkc⟩
      rw [ticks_cnt _ hs] at hkc
      omega

/-! ### The pins over a frame -/

/-- With the configuration in range both thresholds are at most 100 (R17, R67). -/
theorem duties_le {s : State} (hs : ConfigInRange s) : s.duties.1.toNat ≤ 100 ∧ s.duties.2.toNat ≤ 100 :=
  dutyPair_le hs.1 (hs.2.trans (maxLegal_le ..))

/-- After ticks in a row with nothing between them, each pin by the phase reached and its channel's threshold (R65,
R66). -/
theorem ticks_pins_high_iff {s : State} (hs : InRange s) (k : Nat) :
    ((ticks (k + 1) s).out1 = .high ↔ (s.cnt.toNat + 1 + k) % 101 ≤ s.duties.1.toNat) ∧
    ((ticks (k + 1) s).out2 = .high ↔ (s.cnt.toNat + 1 + k) % 101 ≤ s.duties.2.toNat) := by
  obtain ⟨hcounter, hconfig⟩ := hs
  obtain ⟨hd1, hd2⟩ := duties_le hconfig
  obtain ⟨-, -, -, hduties⟩ := ticks_frame k s
  have hphase : (nextCount (ticks k s).cnt).toNat = (s.cnt.toNat + 1 + k) % 101 := by
    rw [← State.ticked_cnt, ← ticks_succ, ticks_cnt _ hcounter]
    omega
  rw [ticks_succ, State.ticked_out1, State.ticked_out2, hduties, comparator_eq_high_iff hd1,
    comparator_eq_high_iff hd2, hphase]
  exact ⟨.rfl, .rfl⟩

/-- Of any 101 phases in a row, `d + 1` are at or below `d`: they are as many as from phase 0 on, where they come
first (R70). -/
theorem count_phase_le {d : Nat} (hd : d ≤ 100) (m : Nat) :
    Nat.count (fun k => (m + k) % 101 ≤ d) 101 = d + 1 := by
  have hshift : Nat.count (fun k => (m + k) % 101 ≤ d) 101 = Nat.count (fun k => k % 101 ≤ d) 101 := by
    have hshifted := Nat.count_add (fun k => k % 101 ≤ d) m 101
    have hwrap := Nat.count_add (fun k => k % 101 ≤ d) 101 m
    simp only [Nat.add_mod_left] at hwrap
    rw [Nat.add_comm 101 m] at hwrap
    omega
  have hlow : Nat.count (fun k => k % 101 ≤ d) (d + 1) = d + 1 :=
    Nat.count_of_forall fun k hk => by omega
  have hhigh : Nat.count (fun k => (d + 1 + k) % 101 ≤ d) (100 - d) = 0 :=
    Nat.count_of_forall_not fun k hk => by omega
  calc Nat.count (fun k => (m + k) % 101 ≤ d) 101
    _ = Nat.count (fun k => k % 101 ≤ d) (d + 1 + (100 - d)) := by rw [hshift]; congr 1; omega
    _ = d + 1 := by rw [Nat.count_add, hlow, hhigh]

/-- A level that is high in exactly the phases up to `d` is high after `d + 1` of 101 ticks in a row (R70). -/
theorem countP_high_of_phase {pin : Nat → Level} {d m : Nat} (hd : d ≤ 100)
    (hpin : ∀ k, pin k = .high ↔ (m + k) % 101 ≤ d) :
    (List.range 101).countP (fun k => pin k == .high) = d + 1 := by
  simp only [beq_eq_decide, hpin]
  exact count_phase_le hd m

/-- Settles O43: each pin follows the phase, which takes 101 values in a row. -/
theorem highTicksPerFrameAreThresholdPlusOne : Obligations.HighTicksPerFrameAreThresholdPlusOne := by
  intro s hs
  obtain ⟨hd1, hd2⟩ := duties_le hs.2
  exact ⟨countP_high_of_phase hd1 fun k => (ticks_pins_high_iff hs k).1,
    countP_high_of_phase hd2 fun k => (ticks_pins_high_iff hs k).2⟩

/-- Settles O44: from the counter at 100 the phase after tick `k + 1` is `k`. -/
theorem frameIsLeadingEdgeAligned : Obligations.FrameIsLeadingEdgeAligned := by
  intro s hs hcnt k hk
  have hlast : s.cnt.toNat = 100 := congrArg BitVec.toNat hcnt
  have hphase : (s.cnt.toNat + 1 + k) % 101 = k := by omega
  obtain ⟨hpin1, hpin2⟩ := ticks_pins_high_iff hs k
  rw [hphase] at hpin1 hpin2
  exact ⟨by rw [ticks_cnt _ hs.1]; omega, hpin1, hpin2⟩

end Sys2Proof.Machine
end

section
/-! PROOFS. The configuration commands (spec/41_config_commands.md): `NOP` (R78), and in contract each command of a build
as the `WR0`, `WR1` or `COMMIT` that its mnemonic names in the build's variant (R49, R79 to R84). -/

namespace Sys2Proof.Machine

/-- Settles O10: `exec_nop` says it of every state. -/
theorem nopLeavesTheStateAsItWas : Obligations.NopLeavesTheStateAsItWas :=
  exec_nop

section ofVariant
variable {v : Variant} {s : State} {a b : Byte}

/-- `exec_wr0` in a build of a given variant (R79, R82). -/
theorem exec_wr0_of_variant (hv : s.build.variant = v) (ha : a.toNat ≤ maxLegal v 0#1) :
    exec (wr0 v a) s = .next { s with x0 := a } := by
  subst hv; exact exec_wr0 ha

/-- `exec_wr1` in a build of a given variant, where either variant has the bound 100 (R80, R83). -/
theorem exec_wr1_of_variant (hv : s.build.variant = v) (ha : a.toNat ≤ 100) :
    exec (wr1 v a) s = .next { s with x1 := a } := by
  subst hv; exact exec_wr1 (ha.trans_eq (maxLegal_one _).symm)

/-- `exec_commit` in a build of a given variant, each value legal for its own register (R81, R84). -/
theorem exec_commit_of_variant (hv : s.build.variant = v) (ha : a.toNat ≤ maxLegal v 0#1) (hb : b.toNat ≤ 100) :
    exec (commit v a b) s = .next { s with x0 := a, x1 := b } := by
  subst hv; exact exec_commit ha (hb.trans_eq (maxLegal_one _).symm)

end ofVariant

/-- Settles O11: `WRDIR` is the `WR0` of variant A, where `maxLegal` bounds register 0 by 1. -/
theorem wrdirStoresTheDirection : Obligations.WrdirStoresTheDirection :=
  fun _ _ hv ha => exec_wr0_of_variant (v := .A) hv ha

/-- Settles O12: `WRPWR` is the `WR1` of variant A. -/
theorem wrpwrStoresThePower : Obligations.WrpwrStoresThePower :=
  fun _ _ hv ha => exec_wr1_of_variant (v := .A) hv ha

/-- Settles O13: `COMMITA` is the `COMMIT` of variant A. -/
theorem commitaStoresBothAtOnce : Obligations.CommitaStoresBothAtOnce :=
  fun _ _ _ hv ha hb => exec_commit_of_variant (v := .A) hv ha hb

/-- Settles O14: `WRPWM1` is the `WR0` of variant B, where `maxLegal` bounds register 0 by 100. -/
theorem wrpwm1StoresTheThresholdOfChannelOne : Obligations.Wrpwm1StoresTheThresholdOfChannelOne :=
  fun _ _ hv ha => exec_wr0_of_variant (v := .B) hv ha

/-- Settles O15: `WRPWM2` is the `WR1` of variant B. -/
theorem wrpwm2StoresTheThresholdOfChannelTwo : Obligations.Wrpwm2StoresTheThresholdOfChannelTwo :=
  fun _ _ hv ha => exec_wr1_of_variant (v := .B) hv ha

/-- Settles O16: `COMMITB` is the `COMMIT` of variant B. -/
theorem commitbStoresBothAtOnce : Obligations.CommitbStoresBothAtOnce :=
  fun _ _ _ hv ha hb => exec_commit_of_variant (v := .B) hv ha hb

end Sys2Proof.Machine
end

section
/-! PROOFS. The host's operations (spec/42_configuration_channel.md): what `READLINE` reads (R93), what `PARSE` answers on
each class of strings (R94 to R98), the tokens of a line and the verdicts on it (R99 to R101), and what the host does
after a failure and holds at any time (R103, R104). -/

namespace Sys2Proof.Machine

/-! ### READLINE -/

/-- A terminator ends the line read so far (R93). -/
theorem readLineFrom_of_terminator {ch : Byte} (h : ch = 0x0A ∨ ch = 0x0D) (buf rest : List Byte) :
    readLineFrom buf (ch :: rest) = some (buf, rest) := by
  obtain rfl | rfl := h <;> rfl

/-- A character that is no terminator is stored, and ends the line as its 32nd character (R93). -/
theorem readLineFrom_of_not_terminator {ch : Byte} (h : ch ≠ 0x0A ∧ ch ≠ 0x0D) (buf rest : List Byte) :
    readLineFrom buf (ch :: rest) =
      if (buf ++ [ch]).length = 32 then some (buf ++ [ch], rest) else readLineFrom (buf ++ [ch]) rest := by
  rw [readLineFrom, feedLine_of_not_terminator h]
  split_ifs <;> rfl

/-- While the line has less than 32 characters, those that are no terminators go to the buffer (R93). -/
theorem readLineFrom_append {line : List Byte} (hline : ∀ ch ∈ line, ch ≠ 0x0A ∧ ch ≠ 0x0D) (buf stream : List Byte)
    (hlen : (buf ++ line).length < 32) : readLineFrom buf (line ++ stream) = readLineFrom (buf ++ line) stream := by
  induction line generalizing buf with
  | nil => simp
  | cons ch rest ih =>
    obtain ⟨hch, hrest⟩ := List.forall_mem_cons.mp hline
    rw [List.append_cons] at hlen ⊢
    have hnotFull : (buf ++ [ch]).length ≠ 32 := by
      rw [List.length_append] at hlen
      omega
    rw [List.cons_append, readLineFrom_of_not_terminator hch, if_neg hnotFull, ih hrest _ hlen]

/-- The first 32 characters of a stream, none of them a terminator, are a line (R93). -/
theorem readLine_of_full {line : List Byte} (hlen : line.length = 32) (hline : ∀ ch ∈ line, ch ≠ 0x0A ∧ ch ≠ 0x0D)
    (rest : List Byte) : readLine (line ++ rest) = some (line, rest) := by
  obtain rfl | ⟨front, last, rfl⟩ := line.eq_nil_or_concat'
  · cases hlen
  · obtain ⟨hfront, hlast⟩ := List.forall_mem_append.mp hline
    have hfrontLen : ([] ++ front).length < 32 := by simp at hlen ⊢; omega
    rw [readLine, List.append_assoc, readLineFrom_append hfront [] _ hfrontLen]
    exact (readLineFrom_of_not_terminator (hlast last (List.mem_singleton_self last)) front rest).trans (if_pos hlen)

/-- Settles O50: a line shorter than 32 characters is in the buffer when the terminator, or the end of what has arrived,
is met. -/
theorem readLineEndsAtTerminatorOrCapacity : Obligations.ReadLineEndsAtTerminatorOrCapacity := by
  refine ⟨fun line rest term hlen hline hterm => ?_, fun line rest hlen hline => readLine_of_full hlen hline rest,
    fun line hlen hline => ?_⟩
  · rw [readLine, readLineFrom_append hline [] _ hlen]
    exact readLineFrom_of_terminator hterm line rest
  · rw [readLine, ← line.append_nil, readLineFrom_append hline [] _ hlen]
    rfl

/-! ### PARSE -/

section parse
variable (long : List Byte → Nat → Nat → ParseResult) (min max : Nat) {s : List Byte}

theorem isDigit_iff (ch : Byte) : isDigit ch = true ↔ 48 ≤ ch.toNat ∧ ch.toNat ≤ 57 := by
  simp [isDigit]

/-- A string with a non-digit is a format error, whatever its length is (R95). -/
theorem parse_of_nonDigit (h : ∃ ch ∈ s, isDigit ch = false) : parse long (some s) min max = .formatError := by
  cases s with
  | nil => rfl
  | cons c cs => exact if_pos (List.all_eq_false.mpr (by simpa using h))

/-- A digit string of one to three characters is its decimal value, put to the bound (R94, R96). -/
theorem parse_of_digits (hne : s ≠ []) (hlen : s.length ≤ 3) (h : ∀ ch ∈ s, isDigit ch = true) :
    parse long (some s) min max = ranged (decimal s) min max := by
  cases s with
  | nil => contradiction
  | cons c cs => rw [parse, List.all_eq_true.mpr h, if_neg Bool.true_eq_false.mp, if_pos hlen]

/-- A longer digit string is what `PARSE_LONG` makes of it, under R98's constraint. -/
theorem parse_of_long_digits (hlen : 4 ≤ s.length) (h : ∀ ch ∈ s, isDigit ch = true) :
    parse long (some s) min max = boundResult (long s min max) min max := by
  cases s with
  | nil => simp at hlen
  | cons c cs => rw [parse, List.all_eq_true.mpr h, if_neg Bool.true_eq_false.mp, if_neg (by omega)]

/-- R98's constraint leaves the two errors and the values within the bound. -/
theorem boundResult_cases (r : ParseResult) :
    boundResult r min max = .formatError ∨ boundResult r min max = .rangeError ∨
      ∃ v, min ≤ v ∧ v ≤ max ∧ boundResult r min max = .value v := by
  cases r with
  | formatError => exact .inl rfl
  | rangeError => exact .inr (.inl rfl)
  | value v =>
    by_cases hv : min ≤ v ∧ v ≤ max
    · exact .inr (.inr ⟨v, hv.1, hv.2, if_pos hv⟩)
    · exact .inr (.inl (if_neg hv))

/-- The exact reading meets R98's constraint as it stands. -/
theorem boundResult_ranged (v : Nat) : boundResult (ranged v min max) min max = ranged v min max := by
  by_cases hv : min ≤ v ∧ v ≤ max <;> simp [ranged, boundResult, hv]

end parse

/-- The character of a decimal digit (R90, R94). -/
def digitChar (d : Nat) : Byte := BitVec.ofNat 8 (48 + d)

theorem toNat_digitChar {d : Nat} (h : d < 10) : (digitChar d).toNat = 48 + d :=
  Nat.mod_eq_of_lt (by omega)

theorem isDigit_digitChar {d : Nat} (h : d < 10) : isDigit (digitChar d) = true := by
  rw [isDigit_iff, toNat_digitChar h]
  omega

/-- The value of a digit string is the number with these digits, the first character being the most significant one. -/
theorem decimal_digitChars {ds : List Nat} (h : ∀ d ∈ ds, d < 10) :
    decimal (ds.map digitChar) = Nat.ofDigits 10 ds.reverse := by
  rw [decimal, List.foldl_map, Nat.ofDigits_eq_foldr, List.foldr_reverse]
  refine List.foldl_ext _ _ 0 fun n d hd => ?_
  rw [toNat_digitChar (h d hd), Nat.add_sub_cancel_left, Nat.add_comm, Nat.cast_id]

/-- `PARSE` reads one to three digits as the number they write (R94, R96). -/
theorem parse_digitChars (long : List Byte → Nat → Nat → ParseResult) (min max : Nat) {ds : List Nat} (hne : ds ≠ [])
    (hlen : ds.length ≤ 3) (h : ∀ d ∈ ds, d < 10) :
    parse long (some (ds.map digitChar)) min max = ranged (Nat.ofDigits 10 ds.reverse) min max := by
  rw [parse_of_digits long min max (by simpa using hne) (by simpa using hlen), decimal_digitChars h]
  exact List.forall_mem_map.mpr fun d hd => isDigit_digitChar (h d hd)

/-- Settles O51: `parse_digitChars` for one, two and three digits. -/
theorem parseReadsUpToThreeDigits : Obligations.ParseReadsUpToThreeDigits := by
  intro long min max d1 d2 d3 h1 h2 h3
  have value2 : 10 * d1 + d2 = Nat.ofDigits 10 [d2, d1] := by
    simp [Nat.ofDigits_cons]
    omega
  have value3 : 100 * d1 + 10 * d2 + d3 = Nat.ofDigits 10 [d3, d2, d1] := by
    simp [Nat.ofDigits_cons]
    omega
  rw [value2, value3]
  exact ⟨parse_digitChars long min max (ds := [d1]) (by simp) (by simp) (by simp [h1]),
    parse_digitChars long min max (ds := [d1, d2]) (by simp) (by simp) (by simp [h1, h2]),
    parse_digitChars long min max (ds := [d1, d2, d3]) (by simp) (by simp) (by simp [h1, h2, h3])⟩

/-- Settles O52: the format check comes first, and a string with no character, or none at all, fails it. -/
theorem parseRejectsNonDigitsFirst : Obligations.ParseRejectsNonDigitsFirst := by
  refine fun long min max => ⟨rfl, rfl, fun s ⟨ch, hmem, hch⟩ => parse_of_nonDigit long min max ⟨ch, hmem, ?_⟩⟩
  rw [Bool.eq_false_iff, ne_eq, isDigit_iff]
  omega

/-- Settles O53: R98's constraint is put on whatever `PARSE_LONG` answers, and changes nothing in the exact reading. -/
theorem parseOfLongStringsStaysWithinTheBound : Obligations.ParseOfLongStringsStaysWithinTheBound := by
  intro long s min max hlen hdigits
  have hs : ∀ ch ∈ s, isDigit ch = true := fun ch hch => (isDigit_iff ch).mpr (hdigits ch hch)
  rw [parse_of_long_digits long min max hlen hs, parse_of_long_digits parseLongExact min max hlen hs]
  exact ⟨boundResult_cases min max _, boundResult_ranged min max (decimal s)⟩

/-! ### The tokens of a line and its verdict -/

theorem splitSpaces_of_no_space {t : List Byte} (h : ∀ ch ∈ t, ch ≠ 0x20) : splitSpaces t = [t] := by
  induction t with
  | nil => rfl
  | cons ch rest ih =>
    obtain ⟨hch, hrest⟩ := List.forall_mem_cons.mp h
    rw [splitSpaces, if_neg hch, ih hrest]

/-- The first space of a line ends its first token (R101). -/
theorem splitSpaces_append_space {t : List Byte} (h : ∀ ch ∈ t, ch ≠ 0x20) (rest : List Byte) :
    splitSpaces (t ++ 0x20 :: rest) = t :: splitSpaces rest := by
  induction t with
  | nil => rfl
  | cons ch t ih =>
    obtain ⟨hch, ht⟩ := List.forall_mem_cons.mp h
    rw [List.cons_append, splitSpaces, if_neg hch, ih ht]

section verdict
variable (long : List Byte → Nat → Nat → ParseResult)

/-- A line of one token is judged with a null string for the second one, which is a format error (R95, R101). -/
theorem verdictB_of_no_space {t : List Byte} (h : ∀ ch ∈ t, ch ≠ 0x20) :
    verdictB long t = judge (parse long (some t) 0 100) .formatError := by
  rw [verdictB, splitSpaces_of_no_space h]
  rfl

/-- A line of two tokens separated by a single space is judged by both (R100, R101). -/
theorem verdictB_of_two_tokens {t1 t2 : List Byte} (hne1 : t1 ≠ []) (hne2 : t2 ≠ []) (h1 : ∀ ch ∈ t1, ch ≠ 0x20)
    (h2 : ∀ ch ∈ t2, ch ≠ 0x20) :
    verdictB long (t1 ++ 0x20 :: t2) = judge (parse long (some t1) 0 100) (parse long (some t2) 0 100) := by
  rw [verdictB, splitSpaces_append_space h1, splitSpaces_of_no_space h2]
  exact if_neg (not_or.mpr ⟨hne1, hne2⟩)

end verdict

section judge
variable {p q : ParseResult}

/-- With an error among the two results nothing is committed (R99, R100). -/
theorem judge_of_error (h : ∀ m n, ¬(p = .value m ∧ q = .value n)) : judge p q = .reject (diagnose p q) := by
  unfold judge
  split
  · exact absurd ⟨rfl, rfl⟩ (h _ _)
  · rfl

/-- The diagnostic of a failure with no value out of range (R103). -/
theorem judge_of_formatError (h : p = .formatError ∨ q = .formatError) (hp : p ≠ .rangeError) (hq : q ≠ .rangeError) :
    judge p q = .reject .format := by
  obtain rfl | rfl := h
  · cases q with
    | rangeError => contradiction
    | value | formatError => rfl
  · cases p with
    | rangeError => contradiction
    | value | formatError => rfl

/-- The diagnostic of a failure with no value malformed (R103). -/
theorem judge_of_rangeError (h : p = .rangeError ∨ q = .rangeError) (hp : p ≠ .formatError) (hq : q ≠ .formatError) :
    judge p q = .reject .range := by
  obtain rfl | rfl := h
  · cases q with
    | formatError => contradiction
    | value | rangeError => rfl
  · cases p with
    | formatError => contradiction
    | value | rangeError => rfl

end judge

/-- Settles O54: `judge` commits exactly when both results are values, and a missing token is an error. -/
theorem hostCommitsOnlyIfEveryValueValidates : Obligations.HostCommitsOnlyIfEveryValueValidates := by
  refine ⟨fun long dLine pLine d p => judge_eq_commit_iff, fun long t1 t2 p q hne1 hne2 hspace => ?_,
    fun long t hspace => ?_⟩
  · obtain ⟨h1, h2⟩ := List.forall_mem_append.mp hspace
    rw [verdictB_of_two_tokens long hne1 hne2 h1 h2]
    exact judge_eq_commit_iff
  · rw [verdictB_of_no_space long hspace]
    exact ⟨⟨_, judge_of_error (by simp)⟩, fun hrange => judge_of_formatError (.inr rfl) hrange (by simp)⟩

/-! ### Failures, and what the host holds -/

/-- Settles O55: a rejection leaves the queue as it was, and the diagnostic is that of `judge`. -/
theorem failedValidationIssuesNothing : Obligations.FailedValidationIssuesNothing :=
  ⟨fun _ _ => ⟨rfl, rfl, rfl⟩, fun _ _ => judge_of_formatError, fun _ _ => judge_of_rangeError⟩

/-- Settles O56: each operation of the host keeps `HostInContract`. -/
theorem hostOnlyEverHoldsCommandsInContract : Obligations.HostOnlyEverHoldsCommandsInContract := by
  intro c hc
  have h : HostInContract c.variant c := ⟨rfl, hc⟩
  exact ⟨h.move.channel, fun ch => (h.receive ch).channel, fun issue => (h.afterCycle issue).channel⟩

end Sys2Proof.Machine
end

section
/-! PROOFS. The exceptions (spec/60_exceptions.md): the host's context reads nothing of the block, so what its commands
do depends on neither the counter nor the pins (R118). -/

namespace Sys2Proof.Machine

/-- A command reads at most the build: a block of the same build with the same registers takes the same values from it,
and keeps everything else of its own (R76, R118). -/
theorem exec_command_of_registers_eq {i : Instr} {s s' t : State} (hl : laneOf i = .command)
    (hbuild : s'.build = s.build) (hx0 : s'.x0 = s.x0) (hx1 : s'.x1 = s.x1) (h : exec i s = .next t) :
    exec i s' = .next { s' with x0 := t.x0, x1 := t.x1 } := by
  cases i
  case reset | tick => simp [laneOf] at hl
  case nop => cases h; rw [← hx0, ← hx1]; rfl
  all_goals
    obtain ⟨hv, hc, rfl⟩ := (hostCommand_eq_next_iff ..).mp h
    rw [← hbuild] at hv hc
    refine (hostCommand_eq_next_iff ..).mpr ⟨hv, hc, ?_⟩
    simp [← hx0, ← hx1, State.memWritePair]

/-- Settles O23, by induction on the run: after each command the two blocks still agree in build and registers. -/
theorem commandsDoNotReadCounterOrPins : Obligations.CommandsDoNotReadCounterOrPins := by
  intro ops
  induction ops with
  | nil => rintro s s' t - - hx0 hx1 ⟨⟩; rw [← hx0, ← hx1]; rfl
  | cons i rest ih =>
    intro s s' t hops hbuild hx0 hx1 h
    obtain ⟨hi, hrest⟩ := List.forall_mem_cons.mp hops
    obtain ⟨u, hu, ht⟩ := (runOps_cons_eq_next_iff ..).mp h
    obtain ⟨hubuild, -, -⟩ := exec_frame hu
    rw [runOps_cons_of_exec (exec_command_of_registers_eq hi hbuild hx0 hx1 hu)]
    exact ih u _ t hrest (hbuild.trans hubuild.symm) rfl rfl ht

end Sys2Proof.Machine
end

section
/-! PROOFS. Reset and hazards (spec/70_reset_and_hazards.md): what `RESET` writes and that it dominates its cycle (R125,
R126), the first frame after it (R128), and what the pins do at phase 0 and at a reversal (R131, R133, R134). -/

namespace Sys2Proof.Machine

/-! ### Reset -/

/-- Settles O1: the state after `RESET` is `State.cleared`. -/
theorem resetWritesEveryElement : Obligations.ResetWritesEveryElement :=
  exec_reset

/-- Settles O4: a vector with `rst = 1` decodes to the cycle of `RESET` alone. -/
theorem resetDominatesTheCycle : Obligations.ResetDominatesTheCycle := by
  intro s iv rest hinputs hrst
  rw [step_of_inputs hinputs, clockEdge_of_decode (decode_of_rst hrst), runCycle_reset]
  rfl

/-! ### The pins over a frame -/

/-- Of ticks in a row from a state in range, one that reaches phase 0 leaves both pins high: no threshold is below 0
(R69, R131). -/
theorem ticks_of_phase_zero {s : State} (hs : InRange s) {k : Nat} (hk : (s.cnt.toNat + 1 + k) % 101 = 0) :
    (ticks (k + 1) s).cnt = 0 ∧ (ticks (k + 1) s).out1 = .high ∧ (ticks (k + 1) s).out2 = .high := by
  obtain ⟨hpin1, hpin2⟩ := ticks_pins_high_iff hs k
  rw [hk] at hpin1 hpin2
  have hcnt : (ticks (k + 1) s).cnt.toNat = 0 := by rw [ticks_cnt _ hs.1]; omega
  exact ⟨BitVec.eq_of_toNat_eq hcnt, hpin1.mpr (Nat.zero_le _), hpin2.mpr (Nat.zero_le _)⟩

/-- Settles O46: from the counter at `c`, tick `101 - c` reaches phase 0. -/
theorem bothPinsRiseWithinAFrame : Obligations.BothPinsRiseWithinAFrame := by
  intro s hs
  have hcounter : s.cnt.toNat ≤ 100 := hs.1
  exact ⟨100 - s.cnt.toNat + 1, by omega, by omega, ticks_of_phase_zero hs (by omega)⟩

/-- A pin that is not high is low. -/
theorem level_eq_low_of_ne_high {l : Level} (h : l ≠ .high) : l = .low := by
  cases l with
  | low => rfl
  | high => exact absurd rfl h

/-- Right after reset the counter is at 0, in every build (R24). -/
theorem toNat_cnt_resetOf (b : Build) : (State.resetOf b).cnt.toNat = 0 := rfl

/-- Right after reset both thresholds are 0, in every build (R23, R58, R59). -/
theorem duties_resetOf (b : Build) : (State.resetOf b).duties = (0, 0) := by
  cases hv : b.variant with
  | A => exact (dutyPair_A hv 0 0).trans (ite_self _)
  | B => exact dutyPair_B hv 0 0

/-- Of ticks in a row from reset, one that reaches another phase than 0 leaves both pins low (R128). -/
theorem ticks_resetOf_of_phase_ne_zero (b : Build) {k : Nat} (hk : (k + 1) % 101 ≠ 0) :
    (ticks (k + 1) (State.resetOf b)).cnt.toNat = (k + 1) % 101 ∧
    (ticks (k + 1) (State.resetOf b)).out1 = .low ∧ (ticks (k + 1) (State.resetOf b)).out2 = .low := by
  have hs : InRange (State.resetOf b) := inRange_resetOf b
  have habove : ¬ (0 + 1 + k) % 101 ≤ 0 := by omega
  obtain ⟨hpin1, hpin2⟩ := ticks_pins_high_iff hs k
  rw [duties_resetOf, toNat_cnt_resetOf] at hpin1 hpin2
  exact ⟨by rw [ticks_cnt _ hs.1, toNat_cnt_resetOf, Nat.zero_add], level_eq_low_of_ne_high (mt hpin1.mp habove),
    level_eq_low_of_ne_high (mt hpin2.mp habove)⟩

/-- Settles O45: of the first 102 ticks only tick 101 reaches phase 0. -/
theorem firstFrameAfterResetPulsesAtTheLastTick : Obligations.FirstFrameAfterResetPulsesAtTheLastTick := by
  intro b
  refine ⟨fun n hpos hn => ?_, ticks_of_phase_zero (inRange_resetOf b) (by rw [toNat_cnt_resetOf]), ?_⟩
  · obtain ⟨k, rfl⟩ := Nat.exists_eq_add_of_le' hpos
    have hphase : (k + 1) % 101 = k + 1 := Nat.mod_eq_of_lt (by omega)
    simpa only [hphase] using ticks_resetOf_of_phase_ne_zero b (k := k) (by omega)
  · obtain ⟨hcnt, hpins⟩ := ticks_resetOf_of_phase_ne_zero b (k := 101) (by decide)
    exact ⟨BitVec.eq_of_toNat_eq hcnt, hpins⟩

/-! ### Reversal -/

/-- Settles O48: at a phase from 1 up to the power, the comparator with the power is high and the one with 0 is low, and
the direction says which channel has which. -/
theorem reversalHasNoDeadTime : Obligations.ReversalHasNoDeadTime := by
  rintro s t ⟨hcounter, -, hx1⟩ hv hx0 hphase h
  have hpower : s.x1.toNat ≤ 100 := hx1.trans (maxLegal_le ..)
  rw [runOps_cons_of_exec (wrdirStoresTheDirection s 0 hv (Nat.zero_le 1)), runOps_singleton, exec_tick] at h
  obtain rfl := Host.Outcome.next.inj h
  have hcnt : (nextCount s.cnt).toNat = s.cnt.toNat + 1 := by
    rw [nextCount_toNat_of_le hcounter, Nat.mod_eq_of_lt (by omega)]
  have hhigh (p : ContractPolicy) : comparator p (nextCount s.cnt) s.x1 = .high :=
    (comparator_eq_high_iff hpower).mpr (hcnt.trans_le hphase)
  have hlow (p : ContractPolicy) : comparator p (nextCount s.cnt) 0#8 = .low :=
    level_eq_low_of_ne_high fun h0 => by simp [comparator_zero_eq_high_iff.mp h0] at hcnt
  refine ⟨hcnt, fun hswap => ?_, fun hswap => ?_⟩ <;>
    simp [State.duties_eq, dutyPair_A hv, hx0, hswap, hhigh, hlow]

end Sys2Proof.Machine
end

section
/-! PROOFS. The two treatments of what is out of contract (decisions D9 and D10, U1, U2): from a state in range a tick
compares thresholds within the contract, and a command that the refusing model performs is one hardware performs too, so
that every step the refusing model takes is the step hardware takes. -/

namespace Sys2Proof.Machine

/-- The same block in the same environment, in a build that does what hardware does out of contract. -/
def State.onHardware (s : State) : State := { s with build := { s.build with policy := .hardware } }

section onHardware
variable (s : State)
@[simp] theorem State.onHardware_policy : s.onHardware.build.policy = .hardware := rfl
@[simp] theorem State.onHardware_sampled : s.onHardware.sampled = s.sampled := rfl

/-- Taking a vector from the ports does not read the policy (R45). -/
theorem State.onHardware_afterSample : s.onHardware.afterSample = s.afterSample.onHardware := by
  cases hinputs : s.inputs <;> simp only [State.afterSample, State.onHardware, hinputs]

/-- `RESET` does not read the policy (R125). -/
theorem State.onHardware_cleared : s.onHardware.cleared = s.cleared.onHardware := rfl

/-- The Duty Pair does not depend on the policy (R58, R59). -/
theorem State.onHardware_duties : s.onHardware.duties = s.duties := rfl
end onHardware

/-- With the configuration in range a tick leaves the same on hardware: both thresholds are at most 100, and there the
two readings of a comparator are one (R74, D10). -/
theorem State.onHardware_ticked {s : State} (hs : ConfigInRange s) : s.onHardware.ticked = s.ticked.onHardware := by
  obtain ⟨hd1, hd2⟩ := duties_le hs
  rw [State.ticked, State.ticked, State.onHardware_duties]
  simp only [comparator_of_le hd1, comparator_of_le hd2]
  rfl

/-- A command that has a meaning has the same on hardware, which checks no bound (R139, U1). -/
theorem exec_command_onHardware {i : Instr} {s t : State} (hl : laneOf i = .command) (h : exec i s = .next t) :
    exec i s.onHardware = .next t.onHardware := by
  cases i
  case reset | tick => simp [laneOf] at hl
  case nop => cases h; rfl
  all_goals
    obtain ⟨hv, -, rfl⟩ := (hostCommand_eq_next_iff ..).mp h
    exact hostCommand_of_hardware hv s.onHardware_policy

/-- A clock edge with a meaning under `policy = refuse` has the same on hardware, from a configuration in range: both
blocks perform `RESET`, or the tick and then the command; a reserved code would have been refused (R48, D9, U2). -/
theorem clockEdge_onHardware {iv : InputVector} {s t : State} (hs : ConfigInRange s) (hp : s.build.policy = .refuse)
    (h : clockEdge iv s = .next t) : clockEdge iv s.onHardware = .next t.onHardware := by
  obtain ⟨hrst, rfl⟩ | ⟨hrst, c, hc, ht⟩ | ⟨-, -, hhardware, -⟩ := clockEdge_cases h
  · rw [clockEdge_of_decode (decode_of_rst hrst), runCycle_reset, State.onHardware_cleared]
  · have hcommand := exec_command_onHardware (laneOf_of_decodeCommand hc) ht
    rw [clockEdge_of_decodeCommand (s := s.onHardware) hrst hc]
    cases htick : tickBit iv with
    | true => simpa [htick, State.onHardware_ticked hs] using hcommand
    | false => simpa [htick] using hcommand
  · simp [hp] at hhardware

/-- Settles O40: both blocks sample the same vector, and the state sampled from is in range. -/
theorem hardwareDoesWhateverTheRefusingModelDoes : Obligations.HardwareDoesWhateverTheRefusingModelDoes := by
  intro s t hs hp h
  obtain ⟨-, hconfig⟩ := inRange_afterSample hs
  change clockEdge s.onHardware.sampled s.onHardware.afterSample = .next t.onHardware
  rw [State.onHardware_sampled, State.onHardware_afterSample]
  exact clockEdge_onHardware hconfig (by rwa [State.afterSample_build]) h

end Sys2Proof.Machine
end
